-- ==== Sys2Proof/Word.lean ====
section
/-! DEFINITION. Word.lean: the units of data the block moves (spec/00_scope.md R8, spec/10_state.md R26, R37). -/

namespace Sys2Proof

/-- A byte: bit 7 is its most significant bit (R8). -/
abbrev Byte := BitVec 8

/-- A frame: exactly eight bytes, `b0` the byte the document calls "Byte 0" (R26). -/
structure Frame where
  b0 : Byte
  b1 : Byte
  b2 : Byte
  b3 : Byte
  b4 : Byte
  b5 : Byte
  b6 : Byte
  b7 : Byte
  deriving DecidableEq, Repr

/-- The six payload bytes of a first frame (R71). -/
structure Payload6 where
  p0 : Byte
  p1 : Byte
  p2 : Byte
  p3 : Byte
  p4 : Byte
  p5 : Byte
  deriving DecidableEq, Repr

/-- The seven payload bytes of a consecutive frame (R72). -/
structure Payload7 where
  p0 : Byte
  p1 : Byte
  p2 : Byte
  p3 : Byte
  p4 : Byte
  p5 : Byte
  p6 : Byte
  deriving DecidableEq, Repr

/-- A payload port, `pin` or `pout`: `PBUF_LEN` = 223 bytes, numbered from 0 (R6, R37). -/
structure PayloadPort where
  bytes : List Byte
  size : bytes.length = 223
  deriving DecidableEq, Repr

/-- The direction of the Message: a closed two-valued tag (R21). -/
inductive Dir where
  | rx
  | tx
  deriving DecidableEq, Repr, Inhabited

end Sys2Proof
end

