-- ==== Sys2Proof/Config.lean ====
section
/-! DEFINITION. Config.lean: the parameters of an instance (spec/00_scope.md R6) and the free values (the state a fault
leaves unspecified, spec/60_exceptions.md R190). -/

namespace Sys2Proof

/-- The two candidate capacities of the frame store: the spec leaves `CAP` OPEN, 31 or 32 (R6, 92 D6). -/
inductive CapChoice where
  | frames31
  | frames32
  deriving DecidableEq, Repr, Inhabited

/-- Which of the two capacities this instance has. No body: nothing can be proved of it but that it is one of the two
(log entry 1). -/
opaque Config.capChoice : CapChoice

/-- The number of frames a capacity stands for. -/
def CapChoice.frames : CapChoice → Nat
  | .frames31 => 31
  | .frames32 => 32

/-- `CAP`, the capacity of the frame store in frames (R6, R27). -/
def Config.cap : Nat := Config.capChoice.frames

/-- `MAX_LEN`, the largest payload length the protocol carries (R6). -/
def Config.maxLen : Nat := 223

/-- `PBUF_LEN`, the number of bytes in each payload port (R6). -/
def Config.portLen : Nat := 223

/-- `PAD`, the fill value of unused trailing payload bytes (R6, R74). -/
def Config.pad : Byte := 0xFF

/-! The state a fault leaves unspecified (R190, 93 U7): one free value per piece of state, read at the counter
`State.freeCtr` (log entry 2). None has a body. -/

opaque Config.freeDir : Nat → Dir
opaque Config.freeDfc : Nat → BitVec 6
opaque Config.freeTdl : Nat → BitVec 8
opaque Config.freeSid : Nat → BitVec 3
opaque Config.freeLfi : Nat → BitVec 5
opaque Config.freeStore : Nat → List Frame

end Sys2Proof
end

