-- ==== Sys2Proof/Machine/Operands.lean ====
section
/-! DEFINITION. Operands.lean: the fields of a frame, packing and unpacking (spec/30_encoding.md R70 to R73, spec/00_scope.md
R10), the payload ports and the layout of a payload across frames (spec/20_memory.md R57 to R59). -/

namespace Sys2Proof.Machine

/-! ## The fields of a frame (R10, R70) -/

/-- `seq_of(f) = f[0][7:5]`. -/
def seqOf (f : Frame) : BitVec 3 := f.b0.extractLsb' 5 3

/-- `idx_of(f) = f[0][4:0]`. -/
def idxOf (f : Frame) : BitVec 5 := f.b0.extractLsb' 0 5

/-- `is_first(f)`: the low five bits of byte 0 are zero (R10, R73). -/
def isFirst (f : Frame) : Bool := idxOf f == 0

/-- `declared_len(f)`: `Some f[1]` exactly for a first frame (R10). -/
def declaredLen (f : Frame) : Option Byte := if isFirst f then some f.b1 else none

/-- `payload_view(f)`: `f[2..7]` of a first frame, `f[1..7]` of any other (R10). -/
def payloadView (f : Frame) : List Byte :=
  if isFirst f then [f.b2, f.b3, f.b4, f.b5, f.b6, f.b7]
  else [f.b1, f.b2, f.b3, f.b4, f.b5, f.b6, f.b7]

/-- The eight bytes `f[0]` to `f[7]` in order (R8). -/
def frameBytes (f : Frame) : List Byte := [f.b0, f.b1, f.b2, f.b3, f.b4, f.b5, f.b6, f.b7]

/-- The six bytes a first frame carries, as FRAME.FIRST names them (R71). -/
def firstPayload (f : Frame) : Payload6 := ⟨f.b2, f.b3, f.b4, f.b5, f.b6, f.b7⟩

/-- The seven bytes a consecutive frame carries, as FRAME.CONSEC names them (R72). -/
def consecPayload (f : Frame) : Payload7 := ⟨f.b1, f.b2, f.b3, f.b4, f.b5, f.b6, f.b7⟩

/-- `frames_for(L) = L / 7 + 1`, floor division on naturals (R121). -/
def framesFor (len : Nat) : Nat := len / 7 + 1

/-! ## Packing (R70 to R72, R100, R101) -/

/-- Byte 0 of every frame: `sequence_id[2:0] ++ frame_index[4:0]` (R70). -/
def packByte0 (seq : BitVec 3) (idx : BitVec 5) : Byte := seq ++ idx

/-- A first frame: index 0, the length byte, six payload bytes (R71). -/
def packFirst (seq : BitVec 3) (len : Byte) (p : Payload6) : Frame :=
  ⟨packByte0 seq 0, len, p.p0, p.p1, p.p2, p.p3, p.p4, p.p5⟩

/-- A consecutive frame: seven payload bytes and no length byte (R72). -/
def packConsec (seq : BitVec 3) (idx : BitVec 5) (p : Payload7) : Frame :=
  ⟨packByte0 seq idx, p.p0, p.p1, p.p2, p.p3, p.p4, p.p5, p.p6⟩

/-- `s[2:0]` of an 8-bit sequence operand (R100, R101). -/
def seqField (s : Byte) : BitVec 3 := s.setWidth 3

/-- `i[4:0]` of an 8-bit index operand (R101). -/
def idxField (i : Byte) : BitVec 5 := i.setWidth 5

/-- `enc_first(p6, L, s)` (R100): the low three bits of `s`, whatever the others are. -/
def encFirst (p : Payload6) (len s : Byte) : Frame := packFirst (seqField s) len p

/-- `enc_consec(p7, s, i)` (R101): none where it raises InvalidParameter. -/
def encConsec (p : Payload7) (s i : Byte) : Option Frame :=
  if 7 < s.toNat ∨ 31 < i.toNat then none else some (packConsec (seqField s) (idxField i) p)

/-! ## The payload ports (R57, R59) -/

/-- `pin[p]`, for `p` in 0 to 222; a port has no other byte. -/
def portByte (pin : PayloadPort) (p : Nat) : Byte := pin.bytes.getD p Config.pad

/-- `pin[0..5]`. -/
def portSix (pin : PayloadPort) : Payload6 :=
  ⟨portByte pin 0, portByte pin 1, portByte pin 2, portByte pin 3, portByte pin 4, portByte pin 5⟩

/-- `pin[0..6]`. -/
def portSeven (pin : PayloadPort) : Payload7 :=
  ⟨portByte pin 0, portByte pin 1, portByte pin 2, portByte pin 3, portByte pin 4, portByte pin 5, portByte pin 6⟩

/-- A port whose first bytes are `l` and whose other bytes are `b`; bytes of `l` beyond the port have no place. -/
def portOf (l : List Byte) (b : Byte) : PayloadPort :=
  ⟨l.take 223 ++ List.replicate (223 - l.length) b, by
    simp only [List.length_append, List.length_take, List.length_replicate]; omega⟩

/-- All 223 bytes `0xFF`, what GETP writes first (R59). -/
def padPort : PayloadPort := ⟨List.replicate 223 Config.pad, List.length_replicate⟩

/-- All 223 bytes zero: the port of a request whose format does not use it. -/
def zeroPort : PayloadPort := ⟨List.replicate 223 0, List.length_replicate⟩

/-- One byte of `MemWrite`: a byte whose offset is not in 0 to 222 has no place to go (log entry 6). -/
def portSet (out : PayloadPort) (a : Nat) (b : Byte) : PayloadPort :=
  ⟨out.bytes.set a b, by rw [List.length_set, out.size]⟩

/-- `MemWrite(POUT, a, len(v), v)` (R9). -/
def memWrite (out : PayloadPort) (a : Nat) : List Byte → PayloadPort
  | [] => out
  | b :: v => memWrite (portSet out a b) (a + 1) v

/-! ## The layout of a payload across frames (R58, R141) -/

/-- `P(p)`: the payload with `0xFF` beyond its end (R141). -/
def payloadAt (pin : PayloadPort) (len p : Nat) : Byte :=
  if p < len then portByte pin p else Config.pad

/-- `frames[0]` of FROMP (R141). -/
def segmentFirst (pin : PayloadPort) (len : Byte) (seq : BitVec 3) : Frame :=
  packFirst seq len
    ⟨payloadAt pin len.toNat 0, payloadAt pin len.toNat 1, payloadAt pin len.toNat 2,
     payloadAt pin len.toNat 3, payloadAt pin len.toNat 4, payloadAt pin len.toNat 5⟩

/-- `frames[k]` of FROMP for `k ≥ 1`: the seven bytes from `base = 6 + 7*(k-1)` (R141). -/
def segmentConsec (pin : PayloadPort) (len : Byte) (seq : BitVec 3) (k : Nat) : Frame :=
  let base := 6 + 7 * (k - 1)
  packConsec seq (BitVec.ofNat 5 k)
    ⟨payloadAt pin len.toNat base, payloadAt pin len.toNat (base + 1), payloadAt pin len.toNat (base + 2),
     payloadAt pin len.toNat (base + 3), payloadAt pin len.toNat (base + 4), payloadAt pin len.toNat (base + 5),
     payloadAt pin len.toNat (base + 6)⟩

/-- `frames[0 .. n-1]` of FROMP, `n = frames_for(L)` (R141). -/
def segmentFrames (pin : PayloadPort) (len : Byte) (seq : BitVec 3) : List Frame :=
  segmentFirst pin len seq ::
    (List.range (framesFor len.toNat - 1)).map fun k => segmentConsec pin len seq (k + 1)

end Sys2Proof.Machine
end

