-- ==== Sys2Proof/Syntax.lean ====
section
/-! DEFINITION. Syntax.lean: the rows of spec/opcode_table.json as `Instr`, the request record of spec/30_encoding.md R76
that carries an operation, and what the host can do (spec/70_reset_and_hazards.md R228). -/

namespace Sys2Proof

/-- One constructor per row of the opcode table: the 17 operations of R80, each with the request fields its format uses
(R78), then the two wire formats of R71 and R72. -/
inductive Instr where
  /-- ENCF, format E1: `pin[0..5]`, `len_in`, `seq_in` (R100). -/
  | encf (p : Payload6) (len seq : Byte)
  /-- ENCC, format E2: `pin[0..6]`, `seq_in`, `idx_in` (R101). -/
  | encc (p : Payload7) (seq idx : Byte)
  /-- DEC, format F (R102). -/
  | dec (fin : Frame)
  /-- FSEQ, format F (R103). -/
  | fseq (fin : Frame)
  /-- FIDX, format F (R104). -/
  | fidx (fin : Frame)
  /-- FISF, format F (R105). -/
  | fisf (fin : Frame)
  /-- FLEN, format F (R106). -/
  | flen (fin : Frame)
  /-- FPAY, format F (R107). -/
  | fpay (fin : Frame)
  /-- NEWRX, format N (R120). -/
  | newrx
  /-- ADDF, format F (R122). -/
  | addf (fin : Frame)
  /-- GETP, format N (R131). -/
  | getp
  /-- FROMP, format P: `pin`, of which the first `len_in` bytes are the payload, `len_in`, `seq_in` (R141, R57). -/
  | fromp (pin : PayloadPort) (len seq : Byte)
  /-- POPF, format N (R145). -/
  | popf
  /-- CLR, format N (R160). -/
  | clr
  /-- MCNT, format N (R162). -/
  | mcnt
  /-- MSEQ, format N (R163). -/
  | mseq
  /-- MLEN, format N (R164). -/
  | mlen
  /-- FRAME.FIRST: `sss00000`, the total data length, six payload bytes (R71). -/
  | frameFirst (seq : BitVec 3) (len : Byte) (p : Payload6)
  /-- FRAME.CONSEC: `sssiiiii` with `iiiii` not zero, seven payload bytes (R72). -/
  | frameConsec (seq : BitVec 3) (idx : BitVec 5) (p : Payload7)
  deriving DecidableEq, Repr

/-- The request record (R76). Fields an operation's format does not use are ignored. -/
structure Request where
  op : BitVec 5
  fin : Frame
  pin : PayloadPort
  lenIn : Byte
  seqIn : Byte
  idxIn : Byte
  deriving DecidableEq, Repr

/-- What the host hands to the block, before decoding: a request record (R76), or the eight raw bytes of a received
wire frame (R71, R72; log entry 3). -/
inductive Raw where
  | request (r : Request)
  | wire (f : Frame)
  deriving DecidableEq, Repr

/-- What the host can do to the block: hand it something to carry out, or assert hardware reset between operations
(R228). -/
inductive HostAct where
  | issue (w : Raw)
  | hardwareReset
  deriving DecidableEq, Repr

end Sys2Proof
end

