-- ==== Sys2Proof/WellFormed.lean ====
section
/-! DEFINITION. WellFormed.lean: which terms of `Instr` stand for a word. Every field is as wide as the field it stands
for, so one condition is left: the index of a consecutive frame is not zero (spec/30_encoding.md R72). -/

namespace Sys2Proof

/-- A FRAME.CONSEC has `iiiii` not zero: with a zero index its bytes are a FRAME.FIRST (R72, R73). An operation takes
every value of its operands: a value outside a documented range is answered by the operation, not ill formed (R75). -/
def Instr.wf : Instr → Bool
  | .encf _ _ _ => true
  | .encc _ _ _ => true
  | .dec _ => true
  | .fseq _ => true
  | .fidx _ => true
  | .fisf _ => true
  | .flen _ => true
  | .fpay _ => true
  | .newrx => true
  | .addf _ => true
  | .getp => true
  | .fromp _ _ _ => true
  | .popf => true
  | .clr => true
  | .mcnt => true
  | .mseq => true
  | .mlen => true
  | .frameFirst _ _ _ => true
  | .frameConsec _ idx _ => idx != 0

end Sys2Proof
end

