-- ==== Sys2Proof/Decode.lean ====
section
/-! DEFINITION. Decode.lean: from what the host hands over to an instruction (spec/30_encoding.md R71 to R73, R78, R80, R81),
total and refusing by name; then the encoder, written from the same tables. -/

namespace Sys2Proof

open Machine

/-- Why a request names no operation. -/
inductive Reject where
  /-- `op` is one of the reserved codes 0x11 to 0x1F (R81). -/
  | reservedOp (op : BitVec 5)
  deriving DecidableEq, Repr

/-- The operation table (R80) with the request formats (R78): by `op` alone, taking the fields the format uses. -/
def decodeRequest (r : Request) : Except Reject Instr :=
  match r.op.toNat with
  | 0x00 => .ok (.encf (portSix r.pin) r.lenIn r.seqIn)
  | 0x01 => .ok (.encc (portSeven r.pin) r.seqIn r.idxIn)
  | 0x02 => .ok (.dec r.fin)
  | 0x03 => .ok (.fseq r.fin)
  | 0x04 => .ok (.fidx r.fin)
  | 0x05 => .ok (.fisf r.fin)
  | 0x06 => .ok (.flen r.fin)
  | 0x07 => .ok (.fpay r.fin)
  | 0x08 => .ok .newrx
  | 0x09 => .ok (.addf r.fin)
  | 0x0A => .ok .getp
  | 0x0B => .ok (.fromp r.pin r.lenIn r.seqIn)
  | 0x0C => .ok .popf
  | 0x0D => .ok .clr
  | 0x0E => .ok .mcnt
  | 0x0F => .ok .mseq
  | 0x10 => .ok .mlen
  | _ => .error (.reservedOp r.op)

/-- The wire formats: by the low five bits of byte 0 and by nothing else; every frame is of exactly one (R73). -/
def decodeWire (f : Frame) : Instr :=
  if isFirst f then .frameFirst (seqOf f) f.b1 (firstPayload f)
  else .frameConsec (seqOf f) (idxOf f) (consecPayload f)

/-- The decoder, total on whatever the host hands over. -/
def decode : Raw → Except Reject Instr
  | .request r => decodeRequest r
  | .wire f => .ok (decodeWire f)

/-! ## The encoder -/

/-- Eight zero bytes: the frame of a request whose format does not use it. -/
def zeroFrame : Frame := ⟨0, 0, 0, 0, 0, 0, 0, 0⟩

/-- Format N (R78), also a request with every operand field zero. -/
def requestN (op : BitVec 5) : Request := ⟨op, zeroFrame, zeroPort, 0, 0, 0⟩

/-- Format F (R78). -/
def requestF (op : BitVec 5) (fin : Frame) : Request := ⟨op, fin, zeroPort, 0, 0, 0⟩

/-- Format E1 (R78). -/
def requestE1 (op : BitVec 5) (p : Payload6) (len seq : Byte) : Request :=
  ⟨op, zeroFrame, portOf [p.p0, p.p1, p.p2, p.p3, p.p4, p.p5] 0, len, seq, 0⟩

/-- Format E2 (R78). -/
def requestE2 (op : BitVec 5) (p : Payload7) (seq idx : Byte) : Request :=
  ⟨op, zeroFrame, portOf [p.p0, p.p1, p.p2, p.p3, p.p4, p.p5, p.p6] 0, 0, seq, idx⟩

/-- Format P (R78). -/
def requestP (op : BitVec 5) (pin : PayloadPort) (len seq : Byte) : Request :=
  ⟨op, zeroFrame, pin, len, seq, 0⟩

/-- The encoder: `op` by R80, the fields by R78, unused fields zero; a wire format is its eight bytes (R71, R72). -/
def encode : Instr → Raw
  | .encf p len seq => .request (requestE1 0x00 p len seq)
  | .encc p seq idx => .request (requestE2 0x01 p seq idx)
  | .dec fin => .request (requestF 0x02 fin)
  | .fseq fin => .request (requestF 0x03 fin)
  | .fidx fin => .request (requestF 0x04 fin)
  | .fisf fin => .request (requestF 0x05 fin)
  | .flen fin => .request (requestF 0x06 fin)
  | .fpay fin => .request (requestF 0x07 fin)
  | .newrx => .request (requestN 0x08)
  | .addf fin => .request (requestF 0x09 fin)
  | .getp => .request (requestN 0x0A)
  | .fromp pin len seq => .request (requestP 0x0B pin len seq)
  | .popf => .request (requestN 0x0C)
  | .clr => .request (requestN 0x0D)
  | .mcnt => .request (requestN 0x0E)
  | .mseq => .request (requestN 0x0F)
  | .mlen => .request (requestN 0x10)
  | .frameFirst seq len p => .wire (packFirst seq len p)
  | .frameConsec seq idx p => .wire (packConsec seq idx p)

/-! ## The opcode table's own numbering -/

/-- The `n`-th byte of a frame written as one 64-bit pattern, byte 0 the most significant (R52). -/
def patternByte (w n : Nat) : Byte := BitVec.ofNat 8 (w / 2 ^ (8 * (7 - n)))

/-- A frame from its 64-bit pattern (R52, R84). -/
def frameOfPattern (w : Nat) : Frame :=
  ⟨patternByte w 0, patternByte w 1, patternByte w 2, patternByte w 3,
   patternByte w 4, patternByte w 5, patternByte w 6, patternByte w 7⟩

/-- What the host hands over for a row of the table whose bits are `w`: a row of 64 bits is a wire format; any other is
the 5-bit `op` of a request whose operand fields are zero (R84; log entry 7). -/
def tableRaw (nbits w : Nat) : Option Raw :=
  if nbits = 64 then some (.wire (frameOfPattern w))
  else if w < 32 then some (.request (requestN (BitVec.ofNat 5 w)))
  else none

/-- The instruction the decoder reads from a table row's bits; none where it refuses. -/
def decodeTableWord (nbits w : Nat) : Option Instr :=
  match tableRaw nbits w with
  | none => none
  | some raw =>
    match decode raw with
    | .ok i => some i
    | .error _ => none

end Sys2Proof
end

