-- ==== Sys2Proof/Machine/State.lean ====
section
/-! DEFINITION. State.lean: the architectural state (spec/10_state.md R20), the response of one operation
(spec/30_encoding.md R77), the reasons a meaning stops, and the state after hardware reset (R39). -/

namespace Sys2Proof.Machine

/-- The codes of R79 other than OK: the six errors of the document's taxonomy, and IllegalCommand. -/
inductive ErrorCode where
  | invalidParameter
  /-- Never raised (R183). -/
  | emptyQueue
  | fullQueue
  | transmissionTypeMismatch
  | sequenceCountError
  | sequenceMismatch
  /-- The answer to a reserved `op` (R81). -/
  | illegalCommand
  deriving DecidableEq, Repr

/-- A response, with the fields the operation drives and no others: a field an operation does not drive is don't-care
and has no value here (R77, 93 U8). -/
inductive Response where
  /-- `status = OK` and nothing else: NEWRX, FROMP, CLR. -/
  | done
  /-- `status` is an error code; only `status` is driven (R77). -/
  | error (e : ErrorCode)
  /-- `fout`: ENCF, ENCC, DEC. -/
  | frame (fout : Frame)
  /-- `val`: FSEQ, FIDX, MCNT, MSEQ, MLEN. -/
  | value (val : Byte)
  /-- `flag`: FISF, ADDF. -/
  | flag (b : Bool)
  /-- `flag`, and `val` when `flag = 1`: FLEN. -/
  | optValue (v : Option Byte)
  /-- `flag`, and `fout` when `flag = 1`: POPF. -/
  | optFrame (f : Option Frame)
  /-- `val`, the number of bytes, and `pout[0 .. val-1]`: FPAY. -/
  | view (bytes : List Byte)
  /-- `val` and all of `pout`: GETP. -/
  | payload (val : Byte) (pout : PayloadPort)
  deriving DecidableEq, Repr

/-- The two faults (R190). The block gives no response and `dead` is set by `takeFault`, which the step applies: safe,
since what a fault leaves is free and a dead block does nothing until hardware reset. -/
inductive Fault where
  /-- Raised by FROMP when `len_in > 223` or `seq_in > 7` (R192); safe. -/
  | segmentationPanic
  /-- Raised by FROMP, ADDF, FRAME.FIRST and FRAME.CONSEC when a frame must go into a store of `CAP` frames (R193); safe. -/
  | storeOverflow
  deriving DecidableEq, Repr

/-- Why a meaning gives no answer. Every instruction has its meaning, so nothing raises it. -/
inductive Refusal where
  /-- An instruction that has no meaning yet; raised by no arm of `exec`; safe. -/
  | notModelled (mnemonic : String)
  deriving DecidableEq, Repr

/-- The state: the tuple of R20, and three fields of the model's own (`requests`, `resp`, `freeCtr`). -/
structure State where
  /-- the direction of the Message (R21) -/
  dir : Dir
  /-- the declared frame count (R22) -/
  dfc : BitVec 6
  /-- the total data length (R23) -/
  tdl : BitVec 8
  /-- the sequence id (R24) -/
  sid : BitVec 3
  /-- the last frame index (R25) -/
  lfi : BitVec 5
  /-- the frame store, oldest frame first; `count` is its length (R27, R28) -/
  store : List Frame
  /-- the fault latch (R29) -/
  dead : Bool
  /-- MODEL: what the host has still to do, in order: the single request stream (R62, R64; log entry 4) -/
  requests : List HostAct
  /-- MODEL: what the response port drove at the latest step; none where it drove nothing (R77; log entry 5) -/
  resp : Option Response
  /-- MODEL: where the free values of the next fault are read (R190; log entry 2) -/
  freeCtr : Nat
  deriving DecidableEq, Repr

/-- The state after hardware reset (R39), with nothing asked, nothing answered and no free value used. -/
def State.reset : State where
  dir := .rx
  dfc := 0
  tdl := 0
  sid := 0
  lfi := 0
  store := []
  dead := false
  requests := []
  resp := none
  freeCtr := 0

end Sys2Proof.Machine
end

