-- ==== Sys2Proof/Machine/Flags.lean ====
section
/-! DEFINITION. Flags.lean: the status codes (spec/30_encoding.md R79), the driven fields of a response (R77), the tests
ADDF and FROMP make and the completion flags (spec/41_receive.md R123 to R127, R134; spec/42_transmit.md R140). -/

namespace Sys2Proof.Machine

/-- The number of an error code (R79). -/
def errorStatus : ErrorCode → BitVec 4
  | .invalidParameter => 0x1
  | .emptyQueue => 0x2
  | .fullQueue => 0x3
  | .transmissionTypeMismatch => 0x4
  | .sequenceCountError => 0x5
  | .sequenceMismatch => 0x6
  | .illegalCommand => 0xF

/-- `status`, which every response drives (R77). -/
def statusOf : Response → BitVec 4
  | .error e => errorStatus e
  | _ => 0x0

/-- `flag`, where the response drives it (R77, R80). -/
def flagOf : Response → Option Bool
  | .flag b => some b
  | .optValue v => some v.isSome
  | .optFrame f => some f.isSome
  | _ => none

/-- `val`, where the response drives it (R77, R80). -/
def valOf : Response → Option Byte
  | .value v => some v
  | .optValue v => v
  | .view bytes => some (BitVec.ofNat 8 bytes.length)
  | .payload v _ => some v
  | _ => none

/-- `fout`, where the response drives it (R77, R80). -/
def foutOf : Response → Option Frame
  | .frame f => some f
  | .optFrame f => f
  | _ => none

/-- The bytes of `pout` the response drives, from `pout[0]` on (R77, R80). -/
def poutOf : Response → Option (List Byte)
  | .view bytes => some bytes
  | .payload _ pout => some pout.bytes
  | _ => none

/-- `count`, the number of frames in the store (R28). -/
def count (s : State) : Nat := s.store.length

/-- The FullQueue test: `count != 0 and count == dfc` (R123). -/
def messageFull (s : State) : Bool := count s != 0 && count s == s.dfc.toNat

/-- `count == CAP` (R134). A count below 31 is below either capacity, so the test settles there without asking which the
instance has; `atCapacity_iff` says it is the spec's test. -/
def atCapacity (n : Nat) : Bool := decide (31 ≤ n) && decide (n = Config.cap)

/-- `n > CAP` (R140): `n` frames do not fit the store. At most 31 frames fit either capacity; `overCapacity_iff` says it
is the spec's test. -/
def overCapacity (n : Nat) : Bool := decide (31 < n) && decide (Config.cap < n)

/-- The flag of a first frame: `frames_for(f[1]) == 1` (R125). -/
def firstCompletes (f : Frame) : Bool := framesFor f.b1.toNat == 1

/-- The order test of a consecutive frame: `idx_of(f) == lfi + 1`, on naturals (R127). -/
def inOrder (f : Frame) (s : State) : Bool := (idxOf f).toNat == s.lfi.toNat + 1

/-- The flag of a consecutive frame: `idx_of(f) + 1 == dfc`, on naturals (R127). -/
def consecCompletes (f : Frame) (s : State) : Bool := (idxOf f).toNat + 1 == s.dfc.toNat

/-- FROMP's first test: `len_in > 223 or seq_in > 7` (R140). -/
def badPrecondition (len seq : Byte) : Bool :=
  decide (Config.maxLen < len.toNat) || decide (7 < seq.toNat)

end Sys2Proof.Machine
end

