-- ==== Sys2Proof/Machine/Ops.lean ====
section
/-! DEFINITION. Ops.lean: the shared operations: how an operation answers (spec/00_scope.md R9, spec/60_exceptions.md R180),
the frame store (spec/10_state.md R27), the initial Message (R39, R211), adding a received frame (spec/41_receive.md),
flattening the store (R131), and the way into a fault and out of it (spec/60_exceptions.md R190, R191; R210). -/

namespace Sys2Proof.Machine

/-- The outcome of an operation. -/
abbrev Result := Host.Outcome State Fault Refusal

/-! ## Answers -/

/-- The operation ends in state `s` with response `r`. -/
def respond (r : Response) (s : State) : Result := .next { s with resp := some r }

/-- `raise E`: the response is the error code and no state is written (R9, R186). -/
def raise (e : ErrorCode) (s : State) : Result := respond (.error e) s

/-- A request that gets no response and changes nothing: what a dead block does with every request (R191). -/
def silent (s : State) : State := { s with resp := none }

/-- Every operation reads `dead` first: while it is set nothing is tested at all (R189, R191). -/
def whenLive (s : State) (k : Result) : Result := if s.dead then .next (silent s) else k

/-- The answer to a reserved `op`: IllegalCommand and no state change (R81). -/
def illegalCommand (s : State) : Result := whenLive s (raise .illegalCommand s)

/-! ## Faults and reset -/

/-- Taking a fault (R190, R195): no response, `dead` set, every other piece of the block's state unspecified. The store
still holds at most `CAP` frames (R27). -/
def takeFault (s : State) : State where
  dir := Config.freeDir s.freeCtr
  dfc := Config.freeDfc s.freeCtr
  tdl := Config.freeTdl s.freeCtr
  sid := Config.freeSid s.freeCtr
  lfi := Config.freeLfi s.freeCtr
  store := (Config.freeStore s.freeCtr).take Config.cap
  dead := true
  requests := s.requests
  resp := none
  freeCtr := s.freeCtr + 1

/-- The initial Message (R39), which NEWRX, CLR and hardware reset all give (R211). -/
def initMessage (s : State) : State :=
  { s with dir := .rx, dfc := 0, tdl := 0, sid := 0, lfi := 0, store := [] }

/-- Hardware reset: the initial Message, `dead` cleared, no response (R210). -/
def hardwareReset (s : State) : State := { initMessage s with dead := false, resp := none }

/-- What the step makes of an operation's outcome: a fault is taken (R190). `s` is the state the operation started in. -/
def settle (s : State) : Result → Result
  | .next t => .next t
  | .fault _ => .next (takeFault s)
  | .refused r => .refused r

/-! ## The frame store -/

/-- `push_back(store, f)` (R9, R27). -/
def pushBack (f : Frame) (s : State) : State := { s with store := s.store ++ [f] }

/-- Store `f` and answer `flag`, or fault StoreOverflow where the store is already at `CAP` (R134). -/
def storeFrame (f : Frame) (flag : Bool) (s : State) : Result :=
  if atCapacity (count s) then .fault .storeOverflow else respond (.flag flag) (pushBack f s)

/-- The store's canonical form: at most `CAP` frames (R27). -/
abbrev Memory.wf (store : List Frame) : Prop := store.length ≤ Config.cap

/-- Byte `j` of the `k`-th stored frame from the front: the store read as bytes (R37). -/
def storeByte (s : State) (k j : Nat) : Option Byte :=
  match s.store[k]? with
  | none => none
  | some f => (frameBytes f)[j]?

/-! ## Adding a received frame -/

/-- ADDF step 4, a first frame (R125): the metadata is overwritten and the frame appended; nothing is flushed (R128). -/
def addFirst (f : Frame) (s : State) : Result :=
  storeFrame f (firstCompletes f)
    { s with dfc := BitVec.ofNat 6 (framesFor f.b1.toNat), sid := seqOf f, tdl := f.b1, lfi := 0 }

/-- ADDF step 5, any other frame: the id (R126), the order (R127), then the store. -/
def addConsec (f : Frame) (s : State) : Result :=
  if seqOf f != s.sid then raise .sequenceCountError s
  else if inOrder f s then storeFrame f (consecCompletes f s) { s with lfi := idxOf f }
  else raise .sequenceMismatch s

/-- ADDF, steps 1 to 5 in the order they are taken (R122 to R127, R189). -/
def addFrame (f : Frame) (s : State) : Result :=
  if s.dir = .tx then raise .transmissionTypeMismatch s
  else if messageFull s then raise .fullQueue s
  else if isFirst f then addFirst f s
  else addConsec f s

/-! ## Flattening the store -/

/-- GETP's loop: each frame's own view, oldest first, with no gap (R131). -/
def writeViews (out : PayloadPort) (off : Nat) : List Frame → PayloadPort
  | [] => out
  | f :: rest => writeViews (memWrite out off (payloadView f)) (off + (payloadView f).length) rest

/-- `pout` of GETP: filled with `0xFF`, then the views from offset 0 (R59, R131). -/
def flattenStore (store : List Frame) : PayloadPort := writeViews padPort 0 store

end Sys2Proof.Machine
end

