-- ==== Sys2Proof/Machine/Codec.lean ====
section
/-! DEFINITION. Codec.lean: the eight Frame Codec operations (spec/40_frame_codec.md). Each is a function of its request
alone and writes no state (R109). -/

namespace Sys2Proof.Machine

/-- ENCF (R100): no failure mode. -/
def execEncf (p : Payload6) (len seq : Byte) (s : State) : Result :=
  whenLive s (respond (.frame (encFirst p len seq)) s)

/-- ENCC (R101): InvalidParameter exactly when `seq_in > 7` or `idx_in > 31`. -/
def execEncc (p : Payload7) (seq idx : Byte) (s : State) : Result :=
  whenLive s <|
    match encConsec p seq idx with
    | some f => respond (.frame f) s
    | none => raise .invalidParameter s

/-- DEC (R102): the identity. -/
def execDec (fin : Frame) (s : State) : Result := whenLive s (respond (.frame fin) s)

/-- FSEQ (R103). -/
def execFseq (fin : Frame) (s : State) : Result :=
  whenLive s (respond (.value ((seqOf fin).setWidth 8)) s)

/-- FIDX (R104). -/
def execFidx (fin : Frame) (s : State) : Result :=
  whenLive s (respond (.value ((idxOf fin).setWidth 8)) s)

/-- FISF (R105). -/
def execFisf (fin : Frame) (s : State) : Result := whenLive s (respond (.flag (isFirst fin)) s)

/-- FLEN (R106): `Some` exactly for a first frame. -/
def execFlen (fin : Frame) (s : State) : Result :=
  whenLive s (respond (.optValue (declaredLen fin)) s)

/-- FPAY (R107): six bytes of a first frame, seven of any other. -/
def execFpay (fin : Frame) (s : State) : Result := whenLive s (respond (.view (payloadView fin)) s)

end Sys2Proof.Machine
end

