-- ==== Sys2Proof/Machine/Management.lean ====
section
/-! DEFINITION. Management.lean: CLR and the metadata accessors (spec/43_management.md). -/

namespace Sys2Proof.Machine

/-- CLR (R160): the initial Message; `dead` is not cleared. -/
def execClr (s : State) : Result := whenLive s (respond .done (initMessage s))

/-- MCNT (R162): the declared frame count, not the number of stored frames. -/
def execMcnt (s : State) : Result := whenLive s (respond (.value (s.dfc.setWidth 8)) s)

/-- MSEQ (R163). -/
def execMseq (s : State) : Result := whenLive s (respond (.value (s.sid.setWidth 8)) s)

/-- MLEN (R164). -/
def execMlen (s : State) : Result := whenLive s (respond (.value s.tdl) s)

end Sys2Proof.Machine
end

