-- ==== Sys2Proof/Machine/Receive.lean ====
section
/-! DEFINITION. Receive.lean: the receive path (spec/41_receive.md): NEWRX, ADDF, GETP. -/

namespace Sys2Proof.Machine

/-- NEWRX (R120): the initial Message replaces whatever was there. -/
def execNewrx (s : State) : Result := whenLive s (respond .done (initMessage s))

/-- ADDF (R122 to R130, R134). -/
def execAddf (fin : Frame) (s : State) : Result := whenLive s (addFrame fin s)

/-- GETP (R131): the store is emptied and nothing else changes (R133). -/
def execGetp (s : State) : Result :=
  whenLive s (respond (.payload s.tdl (flattenStore s.store)) { s with store := [] })

end Sys2Proof.Machine
end

