-- ==== Sys2Proof/Machine/Transmit.lean ====
section
/-! DEFINITION. Transmit.lean: the transmit path (spec/42_transmit.md): FROMP, POPF. -/

namespace Sys2Proof.Machine

/-- The Message FROMP builds, which replaces the previous one whole (R141). -/
def loadMessage (pin : PayloadPort) (len seq : Byte) (s : State) : State :=
  { s with
    dir := .tx
    store := segmentFrames pin len (seqField seq)
    dfc := BitVec.ofNat 6 (framesFor len.toNat)
    tdl := len
    sid := seqField seq
    lfi := 0 }

/-- FROMP: the precondition, then the capacity (R140), then segmentation (R141). -/
def execFromp (pin : PayloadPort) (len seq : Byte) (s : State) : Result :=
  whenLive s <|
    if badPrecondition len seq then .fault .segmentationPanic
    else if overCapacity (framesFor len.toNat) then .fault .storeOverflow
    else respond .done (loadMessage pin len seq s)

/-- POPF (R145): the oldest frame, removed; `None` for ever once the store is empty. -/
def execPopf (s : State) : Result :=
  whenLive s <|
    match s.store with
    | [] => respond (.optFrame none) s
    | f :: rest => respond (.optFrame (some f)) { s with store := rest }

end Sys2Proof.Machine
end

