-- ==== Sys2Proof/Machine/Wire.lean ====
section
/-! DEFINITION. Wire.lean: the two wire formats of the opcode table as received frames. The host feeds received CAN data as
ADDF of the eight bytes (spec/70_reset_and_hazards.md R228), so that is what the block does with a wire frame
(DEDUCED, log entry 3). -/

namespace Sys2Proof.Machine

/-- FRAME.FIRST received: ADDF of its eight bytes (R71, R125). -/
def execFrameFirst (seq : BitVec 3) (len : Byte) (p : Payload6) (s : State) : Result :=
  whenLive s (addFrame (packFirst seq len p) s)

/-- FRAME.CONSEC received: ADDF of its eight bytes (R72, R126, R127). -/
def execFrameConsec (seq : BitVec 3) (idx : BitVec 5) (p : Payload7) (s : State) : Result :=
  whenLive s (addFrame (packConsec seq idx p) s)

end Sys2Proof.Machine
end

