-- ==== Sys2Proof/Machine/Dispatch.lean ====
section
/-! DEFINITION. Dispatch.lean: the meaning of each instruction, one arm per constructor of Instr. -/

namespace Sys2Proof.Machine

def exec (i : Instr) (s : State) : Host.Outcome State Fault Refusal :=
  match i with
  | .encf p len seq => Sys2Proof.Machine.execEncf p len seq s
  | .encc p seq idx => Sys2Proof.Machine.execEncc p seq idx s
  | .dec fin => Sys2Proof.Machine.execDec fin s
  | .fseq fin => Sys2Proof.Machine.execFseq fin s
  | .fidx fin => Sys2Proof.Machine.execFidx fin s
  | .fisf fin => Sys2Proof.Machine.execFisf fin s
  | .flen fin => Sys2Proof.Machine.execFlen fin s
  | .fpay fin => Sys2Proof.Machine.execFpay fin s
  | .newrx => Sys2Proof.Machine.execNewrx s
  | .addf fin => Sys2Proof.Machine.execAddf fin s
  | .getp => Sys2Proof.Machine.execGetp s
  | .fromp pin len seq => Sys2Proof.Machine.execFromp pin len seq s
  | .popf => Sys2Proof.Machine.execPopf s
  | .clr => Sys2Proof.Machine.execClr s
  | .mcnt => Sys2Proof.Machine.execMcnt s
  | .mseq => Sys2Proof.Machine.execMseq s
  | .mlen => Sys2Proof.Machine.execMlen s
  | .frameFirst seq len p => Sys2Proof.Machine.execFrameFirst seq len p s
  | .frameConsec seq idx p => Sys2Proof.Machine.execFrameConsec seq idx p s

end Sys2Proof.Machine
end

