-- ==== Sys2Proof/Machine/Port.lean ====
section
/-! DEFINITION. Port.lean: taking the host's next action from the stream, and carrying out what it hands over
(spec/20_memory.md R62, R64; spec/30_encoding.md R81; spec/60_exceptions.md R189). -/

namespace Sys2Proof.Machine

/-- The host's next action and the state with it taken; none where the host has stopped (R229). -/
def nextAct (s : State) : Option (HostAct × State) :=
  match s.requests with
  | [] => none
  | a :: rest => some (a, { s with requests := rest })

/-- Carry out what the host hands over: a reserved `op` is decided before anything else (R81, R189). -/
def serve (w : Raw) (s : State) : Result :=
  match decode w with
  | .ok i => exec i s
  | .error _ => illegalCommand s

/-- `s` with `w` as the host's next action. -/
def enqueue (w : Raw) (s : State) : State := { s with requests := .issue w :: s.requests }

/-- `s` with the table row's bits `w` as the host's next action, where they are a request or a frame (log entry 7). -/
def enqueueTableWord (nbits w : Nat) (s : State) : State :=
  match tableRaw nbits w with
  | some raw => enqueue raw s
  | none => s

end Sys2Proof.Machine
end

