-- ==== Sys2Proof/Machine/Step.lean ====
section
/-! DEFINITION. Step.lean: one step of the block: one action of the host, or nothing where there is none
(spec/20_memory.md R55, R62; spec/60_exceptions.md R203). -/

namespace Sys2Proof.Machine

/-- One step. With no action the block is idle and holds its state (R203); hardware reset gives the initial state
(R210); anything else is carried out, and a fault it raises is taken (R190). -/
def step (s : State) : Host.Outcome State Fault Refusal :=
  match nextAct s with
  | none => .next (silent s)
  | some (.hardwareReset, s1) => .next (hardwareReset s1)
  | some (.issue w, s1) => settle s1 (serve w s1)

/-- `s` with the instruction whose table bits are `w` handed over at the next step. -/
def State.withFetchWord (s : State) (nbits w : Nat) : State := enqueueTableWord nbits w s

end Sys2Proof.Machine
end

