-- ==== Sys2Proof/Safety.lean ====
section
/-! DEFINITION. Safety.lean: the terms the statements use: what a legal live state is (spec/10_state.md R30, R31), when an
operation raises which error (spec/60_exceptions.md R181), the phases of a Message (spec/43_management.md R166), which
request fields a format uses (spec/30_encoding.md R78), and repeated ADDF and POPF. -/

namespace Sys2Proof.Safety

open Machine

/-! ## Legal states -/

/-- How many frames stand behind the last first frame of a store (all of them where it has none): the length of the run
of consecutive frames R132 speaks of. -/
def tailRun (store : List Frame) : Nat :=
  store.foldl (fun n f => if isFirst f then 0 else n + 1) 0

/-- What R30 says of a Transmit message: the registers are those of the FROMP that built it and the store holds the last
`count` frames of the sequence it built. -/
def TransmitForm (s : State) : Prop :=
  ∃ pin : PayloadPort,
    s.tdl.toNat ≤ Config.maxLen ∧ s.dfc.toNat = framesFor s.tdl.toNat ∧ s.lfi = 0 ∧
    count s ≤ s.dfc.toNat ∧
    s.store = (segmentFrames pin s.tdl s.sid).drop (s.dfc.toNat - count s)

/-- What holds of a Receive message whatever the host fed it: a run of consecutive frames at the end of the store is no
longer than `lfi` (R132), and the two metadata registers agree (R39, R125). -/
def ReceiveForm (s : State) : Prop :=
  tailRun s.store ≤ s.lfi.toNat ∧
  (s.dfc.toNat = framesFor s.tdl.toNat ∨ (s.dfc = 0 ∧ s.tdl = 0))

/-- The invariant of R30: `count <= CAP` and `dfc <= 37` in every live state, and the form its direction has. A dead
block's other state is unspecified (R190); that its store still holds at most `CAP` frames (R27) is log entry 9. -/
def Legal (s : State) : Prop :=
  Memory.wf s.store ∧
  (s.dead = false →
    s.dfc.toNat ≤ 37 ∧
    (s.dir = .tx → TransmitForm s) ∧
    (s.dir = .rx → ReceiveForm s))

/-- The state of a well-formed reassembly with at least one frame (R31). -/
def Assembling (s : State) : Prop :=
  s.dir = .rx ∧ s.dead = false ∧ count s ≠ 0 ∧ count s ≤ s.dfc.toNat ∧
  s.lfi.toNat = count s - 1 ∧ s.dfc.toNat = framesFor s.tdl.toNat ∧
  (∀ f, s.store[0]? = some f → isFirst f = true ∧ f.b1 = s.tdl) ∧
  (∀ k f, s.store[k]? = some f → (idxOf f).toNat = k ∧ seqOf f = s.sid)

/-! ## Errors -/

/-- When ADDF of `f` raises which error, as the table of R181 has it. -/
def addfRaises (f : Frame) (s : State) : ErrorCode → Prop
  | .transmissionTypeMismatch => s.dir = .tx
  | .fullQueue => s.dir = .rx ∧ count s ≠ 0 ∧ count s = s.dfc.toNat
  | .sequenceCountError =>
    s.dir = .rx ∧ ¬(count s ≠ 0 ∧ count s = s.dfc.toNat) ∧ idxOf f ≠ 0 ∧ seqOf f ≠ s.sid
  | .sequenceMismatch =>
    s.dir = .rx ∧ ¬(count s ≠ 0 ∧ count s = s.dfc.toNat) ∧ idxOf f ≠ 0 ∧ seqOf f = s.sid ∧
      (idxOf f).toNat ≠ s.lfi.toNat + 1
  | .invalidParameter => False
  | .emptyQueue => False
  | .illegalCommand => False

/-- When an instruction raises which error: the table of R181; no other instruction raises any. The two rows for received
wire frames are ADDF's, by log entry 3. -/
def raises (i : Instr) (s : State) (e : ErrorCode) : Prop :=
  match i with
  | .encc _ seq idx => e = .invalidParameter ∧ (7 < seq.toNat ∨ 31 < idx.toNat)
  | .addf f => addfRaises f s e
  | .frameFirst seq len p => addfRaises (packFirst seq len p) s e
  | .frameConsec seq idx p => addfRaises (packConsec seq idx p) s e
  | .encf _ _ _ | .dec _ | .fseq _ | .fidx _ | .fisf _ | .flen _ | .fpay _ => False
  | .newrx | .getp | .fromp _ _ _ | .popf | .clr | .mcnt | .mseq | .mlen => False

/-- ADDF of `f` passes its four error tests (R122, R123, R126, R127). -/
def accepts (f : Frame) (s : State) : Prop :=
  s.dir = .rx ∧ ¬(count s ≠ 0 ∧ count s = s.dfc.toNat) ∧
  (idxOf f = 0 ∨ (seqOf f = s.sid ∧ (idxOf f).toNat = s.lfi.toNat + 1))

/-- When an instruction raises which fault (R192, R193); the rows for received wire frames are ADDF's, by log entry 3. -/
def faults (i : Instr) (s : State) (r : Fault) : Prop :=
  match i, r with
  | .fromp _ len seq, .segmentationPanic => 223 < len.toNat ∨ 7 < seq.toNat
  | .fromp _ len seq, .storeOverflow =>
    len.toNat ≤ 223 ∧ seq.toNat ≤ 7 ∧ Config.cap < framesFor len.toNat
  | .addf f, .storeOverflow => accepts f s ∧ count s = Config.cap
  | .frameFirst seq len p, .storeOverflow => accepts (packFirst seq len p) s ∧ count s = Config.cap
  | .frameConsec seq idx p, .storeOverflow => accepts (packConsec seq idx p) s ∧ count s = Config.cap
  | _, _ => False

/-! ## Phases -/

/-- The phases of the lifecycle (R166). -/
inductive Phase where
  | rxEmpty
  | rxAssembling
  | rxComplete
  | txLoaded
  | txEmpty
  | dead
  deriving DecidableEq, Repr

/-- The phase a state is in (R166). -/
def phase (s : State) : Phase :=
  if s.dead then .dead
  else if s.dir = .tx then (if count s = 0 then .txEmpty else .txLoaded)
  else if count s = 0 then .rxEmpty
  else if count s = s.dfc.toNat then .rxComplete
  else .rxAssembling

/-- The ADDF rows of the transition table (R167), from a live Receive message, the frame accepted: the phase after. -/
def phaseAfterAdd (f : Frame) (s : State) : Phase :=
  match phase s with
  | .rxEmpty =>
    if idxOf f = 0 then (if f.b1.toNat ≤ 6 then .rxComplete else .rxAssembling)
    else if s.dfc.toNat = 1 then .rxComplete else .rxAssembling
  | .rxAssembling =>
    if count s + 1 = (if idxOf f = 0 then framesFor f.b1.toNat else s.dfc.toNat) then .rxComplete
    else .rxAssembling
  | other => other

/-! ## Request fields -/

/-- The rows of R80 with the fields of R78: the request `r` asks for the instruction `i`, its code that of `i`'s row and
each operand of `i` the field of `r` its format names. -/
def asksFor (r : Request) : Instr → Prop
  | .encf p len seq =>
    r.op = 0x00 ∧ r.pin.bytes.take 6 = [p.p0, p.p1, p.p2, p.p3, p.p4, p.p5] ∧ r.lenIn = len ∧ r.seqIn = seq
  | .encc p seq idx =>
    r.op = 0x01 ∧ r.pin.bytes.take 7 = [p.p0, p.p1, p.p2, p.p3, p.p4, p.p5, p.p6] ∧ r.seqIn = seq ∧ r.idxIn = idx
  | .dec f => r.op = 0x02 ∧ r.fin = f
  | .fseq f => r.op = 0x03 ∧ r.fin = f
  | .fidx f => r.op = 0x04 ∧ r.fin = f
  | .fisf f => r.op = 0x05 ∧ r.fin = f
  | .flen f => r.op = 0x06 ∧ r.fin = f
  | .fpay f => r.op = 0x07 ∧ r.fin = f
  | .newrx => r.op = 0x08
  | .addf f => r.op = 0x09 ∧ r.fin = f
  | .getp => r.op = 0x0A
  | .fromp pin len seq => r.op = 0x0B ∧ r.pin = pin ∧ r.lenIn = len ∧ r.seqIn = seq
  | .popf => r.op = 0x0C
  | .clr => r.op = 0x0D
  | .mcnt => r.op = 0x0E
  | .mseq => r.op = 0x0F
  | .mlen => r.op = 0x10
  | .frameFirst _ _ _ | .frameConsec _ _ _ => False

/-- Two requests agree on `op` and on the fields its format uses (R78); format P uses `pin[0 .. len_in-1]` alone. A
reserved code has no format, so nothing else of it is used (R81). -/
def agreeOnUsedFields (r r' : Request) : Prop :=
  r.op = r'.op ∧
  match r.op.toNat with
  | 0x00 => r.pin.bytes.take 6 = r'.pin.bytes.take 6 ∧ r.lenIn = r'.lenIn ∧ r.seqIn = r'.seqIn
  | 0x01 => r.pin.bytes.take 7 = r'.pin.bytes.take 7 ∧ r.seqIn = r'.seqIn ∧ r.idxIn = r'.idxIn
  | 0x02 | 0x03 | 0x04 | 0x05 | 0x06 | 0x07 | 0x09 => r.fin = r'.fin
  | 0x0B =>
    r.pin.bytes.take r.lenIn.toNat = r'.pin.bytes.take r.lenIn.toNat ∧ r.lenIn = r'.lenIn ∧ r.seqIn = r'.seqIn
  | _ => True

/-! ## Kinds of instruction -/

/-- The eight Frame Codec operations (spec/40_frame_codec.md R109). -/
def isCodec : Instr → Bool
  | .encf _ _ _ | .encc _ _ _ | .dec _ | .fseq _ | .fidx _ | .fisf _ | .flen _ | .fpay _ => true
  | .newrx | .addf _ | .getp | .fromp _ _ _ | .popf | .clr | .mcnt | .mseq | .mlen => false
  | .frameFirst _ _ _ | .frameConsec _ _ _ => false

/-- The frame an instruction offers to the store, where it offers one: ADDF, and a received wire frame. -/
def offered : Instr → Option Frame
  | .addf f => some f
  | .frameFirst seq len p => some (packFirst seq len p)
  | .frameConsec seq idx p => some (packConsec seq idx p)
  | .encf _ _ _ | .encc _ _ _ | .dec _ | .fseq _ | .fidx _ | .fisf _ | .flen _ | .fpay _ => none
  | .newrx | .getp | .fromp _ _ _ | .popf | .clr | .mcnt | .mseq | .mlen => none

/-- The instructions that replace the whole Message: they alone write `dir` (R21, R169). -/
def replacesMessage : Instr → Bool
  | .newrx | .clr | .fromp _ _ _ => true
  | .encf _ _ _ | .encc _ _ _ | .dec _ | .fseq _ | .fidx _ | .fisf _ | .flen _ | .fpay _ => false
  | .addf _ | .getp | .popf | .mcnt | .mseq | .mlen | .frameFirst _ _ _ | .frameConsec _ _ _ => false

/-! ## Repeated operations -/

/-- ADDF of each frame in turn, as long as the block answers. -/
def receiveAll : List Frame → State → Result
  | [], s => .next s
  | f :: rest, s =>
    match exec (.addf f) s with
    | .next t => receiveAll rest t
    | r => r

/-- POPF `n` times, as long as the block answers. -/
def popMany : Nat → State → Result
  | 0, s => .next s
  | n + 1, s =>
    match exec .popf s with
    | .next t => popMany n t
    | r => r

end Sys2Proof.Safety
end

