-- ==== Sys2Proof/Certificates/Slice0/Obligations.lean ====
section
/-! DEFINITION. Obligations.lean: the statements for the provers. Each docstring names the rule of spec/ it formalises; a
rule whose file marks it "[derived ...]" and a choice of this model's log are named as such. -/

open Sys2Proof Sys2Proof.Machine Sys2Proof.Safety

/-! ## Encoding -/

/-- R80, R71, R72, R52: a few table words, written out from the spec's encodings, decode to their instruction. -/
def Obligations.SampleWordsDecode : Prop :=
  decodeTableWord 8 0b00010 = some (.dec zeroFrame) ∧
  decodeTableWord 8 0b01000 = some .newrx ∧
  decodeTableWord 8 0b01001 = some (.addf zeroFrame) ∧
  decodeTableWord 8 0b01100 = some .popf ∧
  decodeTableWord 8 0b10000 = some .mlen ∧
  decodeTableWord 8 0b10001 = none ∧
  decodeTableWord 64 0x0019127CEAD5123D = some (.frameFirst 0 0x19 ⟨0x12, 0x7C, 0xEA, 0xD5, 0x12, 0x3D⟩) ∧
  decodeTableWord 64 0xA331F3D0ACF2231A = some (.frameConsec 5 3 ⟨0x31, 0xF3, 0xD0, 0xAC, 0xF2, 0x23, 0x1A⟩)

/-- R76, R78, R80, R71, R72: decoding what the encoder gives for a well-formed instruction gives it back, every operand
at every value. -/
def Obligations.DecodeOfEncode : Prop :=
  ∀ i : Instr, i.wf = true → decode (encode i) = .ok i

/-- R73: every 64-bit value is a frame of exactly one of the two formats, told by the low five bits of byte 0 alone; no
bit of it is lost. -/
def Obligations.WireFrameHasOneFormat : Prop :=
  ∀ f : Frame, ∃ i : Instr,
    decode (.wire f) = .ok i ∧ i.wf = true ∧ encode i = .wire f ∧
    ((f.b0.toNat % 32 = 0 ∧ ∃ seq p, i = .frameFirst seq f.b1 p) ∨
     (f.b0.toNat % 32 ≠ 0 ∧ ∃ seq idx p, i = .frameConsec seq idx p))

/-- R76, R78, R80, R81: `op` alone says which operation a request names: codes 0x11 to 0x1F name none, every other code
names one, well formed, that the encoder gives the same `op`; decoding it again changes nothing. The operands are the
fields of the request that the operation's format uses. Unused fields are ignored: requests that agree on `op` and on
the used fields decode alike (but for FROMP, whose instruction carries the whole port), and every one of them makes the
step do the same. -/
def Obligations.RequestDecodesByOpAlone : Prop :=
  (∀ r : Request,
    (0x11 ≤ r.op.toNat → decode (.request r) = .error (.reservedOp r.op)) ∧
    (r.op.toNat ≤ 0x10 → ∃ i r', decode (.request r) = .ok i ∧ i.wf = true ∧
      encode i = .request r' ∧ r'.op = r.op ∧ decode (.request r') = .ok i) ∧
    (∀ i, decode (.request r) = .ok i ↔ asksFor r i)) ∧
  (∀ r r' : Request, agreeOnUsedFields r r' →
    (r.op ≠ 0x0B → decode (.request r) = decode (.request r')) ∧
    ∀ (s : State) (rest : List HostAct),
      step { s with requests := .issue (.request r) :: rest } =
        step { s with requests := .issue (.request r') :: rest })

/-! ## The step -/

/-- R62, R190: a step whose next action decodes to `i` runs `i` on the state with that action taken; a fault `i` raises is
taken. The same for a word of the opcode table put where the step takes its next action (log entries 4 and 7). -/
def Obligations.StepRunsDecodedInstruction : Prop :=
  (∀ (s : State) (w : Raw) (i : Instr) (rest : List HostAct),
    s.requests = .issue w :: rest → decode w = .ok i →
    step s = settle { s with requests := rest } (exec i { s with requests := rest })) ∧
  (∀ (s : State) (nbits w : Nat) (i : Instr),
    decodeTableWord nbits w = some i → step (s.withFetchWord nbits w) = settle s (exec i s))

/-- R168: no automatic transition: with no operation issued a step leaves every register and the store as they are. -/
def Obligations.NoAutomaticTransition : Prop :=
  ∀ s : State, s.requests = [] → step s = .next { s with resp := none }

/-- R39: the state after hardware reset; NEWRX and CLR produce the same (the request stream, the response and the free
counter are the model's own fields). The last clause, that a fresh block accepts the consecutive frame (id 0, index 1),
is the consequence R39 draws and R129 marks derived; it rests on the zeros chosen there (log entry 8), and R129 says that
no claim should rest on it. -/
def Obligations.ResetValues : Prop :=
  (State.reset.dir = .rx ∧ State.reset.dfc = 0 ∧ State.reset.tdl = 0 ∧ State.reset.sid = 0 ∧
    State.reset.lfi = 0 ∧ State.reset.store = [] ∧ count State.reset = 0 ∧ State.reset.dead = false) ∧
  (∀ s : State, s.dead = false → ∀ i, i = .newrx ∨ i = .clr →
    exec i s = .next { State.reset with requests := s.requests, resp := some .done, freeCtr := s.freeCtr }) ∧
  (∀ f : Frame, f.b0 = 0x01 → ∃ t, exec (.addf f) State.reset = .next t ∧ t.resp = some (.flag false) ∧
    t.store = [f])

/-- R210: hardware reset puts the block, dead or not, into the state of R39, and it is the only thing that clears
`dead`. -/
def Obligations.HardwareResetAloneClearsDead : Prop :=
  (∀ (s : State) (rest : List HostAct), s.requests = .hardwareReset :: rest →
    step s = .next { State.reset with requests := rest, freeCtr := s.freeCtr }) ∧
  (∀ s t : State, s.dead = true → step s = .next t → t.dead = false →
    ∃ rest, s.requests = .hardwareReset :: rest)

/-- R191: while `dead = 1` a request gets no response and changes nothing, whatever it is (CLR, NEWRX and reserved codes
too); hardware reset clears `dead`. -/
def Obligations.DeadBlockAcceptsNothing : Prop :=
  (∀ (i : Instr) (s : State), s.dead = true → exec i s = .next { s with resp := none }) ∧
  (∀ (s : State) (w : Raw) (rest : List HostAct), s.dead = true → s.requests = .issue w :: rest →
    step s = .next { s with requests := rest, resp := none }) ∧
  (∀ (s : State) (rest : List HostAct), s.requests = .hardwareReset :: rest →
    ∃ t, step s = .next t ∧ t.dead = false)

/-- R192, R193: which fault each instruction raises, exactly when; no other instruction raises any. That a received wire
frame can raise StoreOverflow is the model's reading of its row as ADDF (log entry 3). -/
def Obligations.FaultsExactlyWhenStated : Prop :=
  ∀ (i : Instr) (s : State) (r : Fault), s.dead = false → (exec i s = .fault r ↔ faults i s r)

/-- R29, R190: from a live block what the host hands over leaves `dead` set exactly when its instruction faults, and then
there is no response. That the step goes on in the faulted state is this model's choice (log entry 2); that a received
wire frame can fault, as ADDF does, is the model's reading of its row (log entry 3). -/
def Obligations.DeadSetByFaultsAlone : Prop :=
  ∀ (s : State) (w : Raw) (rest : List HostAct), s.dead = false → s.requests = .issue w :: rest →
    ∃ t, step s = .next t ∧ t.requests = rest ∧
      (t.dead = true ↔ ∃ i r, decode w = .ok i ∧ faults i s r) ∧
      (t.dead = true → t.resp = none)

/-- R226: every step gives a next state, and a live block answers every request that does not fault; a received wire frame
counts as a request by log entry 3, and a fault is a next state of the step by log entry 2. -/
def Obligations.EveryRequestAnswered : Prop :=
  ∀ s : State, ∃ t, step s = .next t ∧
    (∀ w rest, s.requests = .issue w :: rest → s.dead = false → t.dead = false → t.resp ≠ none)

/-- R81: a reserved `op` is answered with IllegalCommand, status 0xF, and changes no state. -/
def Obligations.ReservedOpAnswersIllegalCommand : Prop :=
  ∀ (s : State) (r : Request) (rest : List HostAct), s.dead = false →
    s.requests = .issue (.request r) :: rest → 0x11 ≤ r.op.toNat →
    step s = .next { s with requests := rest, resp := some (.error .illegalCommand) } ∧
    statusOf (.error .illegalCommand) = 0xF

/-! ## The Frame Codec -/

/-- R100: ENCF packs the low three bits of `seq_in`, index 0, `len_in` as it is, and the six bytes; it cannot fail. -/
def Obligations.EncfPacksFirstFrame : Prop :=
  ∀ (p : Payload6) (len seq : Byte) (s : State), s.dead = false →
    exec (.encf p len seq) s = .next { s with
      resp := some (.frame ⟨BitVec.ofNat 8 (seq.toNat % 8 * 32), len, p.p0, p.p1, p.p2, p.p3, p.p4, p.p5⟩) }

/-- R101: ENCC packs `seq_in * 32 + idx_in` and the seven bytes, or answers InvalidParameter, exactly when `seq_in > 7` or
`idx_in > 31`, and nothing else. -/
def Obligations.EnccPacksOrRefuses : Prop :=
  ∀ (p : Payload7) (seq idx : Byte) (s : State), s.dead = false →
    (seq.toNat ≤ 7 ∧ idx.toNat ≤ 31 →
      exec (.encc p seq idx) s = .next { s with
        resp := some (.frame ⟨BitVec.ofNat 8 (seq.toNat * 32 + idx.toNat),
          p.p0, p.p1, p.p2, p.p3, p.p4, p.p5, p.p6⟩) }) ∧
    (7 < seq.toNat ∨ 31 < idx.toNat →
      exec (.encc p seq idx) s = .next { s with resp := some (.error .invalidParameter) })

/-- R102: DEC is the identity. -/
def Obligations.DecGivesFrameBack : Prop :=
  ∀ (f : Frame) (s : State), s.dead = false → exec (.dec f) s = .next { s with resp := some (.frame f) }

/-- R103: FSEQ answers bits 7 to 5 of byte 0. -/
def Obligations.FseqReadsTopThreeBits : Prop :=
  ∀ (f : Frame) (s : State), s.dead = false →
    exec (.fseq f) s = .next { s with resp := some (.value (BitVec.ofNat 8 (f.b0.toNat / 32))) }

/-- R104: FIDX answers bits 4 to 0 of byte 0. -/
def Obligations.FidxReadsLowFiveBits : Prop :=
  ∀ (f : Frame) (s : State), s.dead = false →
    exec (.fidx f) s = .next { s with resp := some (.value (BitVec.ofNat 8 (f.b0.toNat % 32))) }

/-- R105: FISF answers whether the frame index is zero. -/
def Obligations.FisfTestsIndexZero : Prop :=
  ∀ (f : Frame) (s : State), s.dead = false →
    exec (.fisf f) s = .next { s with resp := some (.flag (f.b0.toNat % 32 == 0)) }

/-- R106: FLEN answers `Some f[1]` of a first frame and `None` of any other. -/
def Obligations.FlenReadsDeclaredLength : Prop :=
  ∀ (f : Frame) (s : State), s.dead = false →
    exec (.flen f) s = .next { s with
      resp := some (.optValue (if f.b0.toNat % 32 = 0 then some f.b1 else none)) }

/-- R107: FPAY answers the six bytes 2 to 7 of a first frame and the seven bytes 1 to 7 of any other, `val` their
number. -/
def Obligations.FpayGivesPayloadView : Prop :=
  ∀ (f : Frame) (s : State), s.dead = false → ∃ r : Response,
    exec (.fpay f) s = .next { s with resp := some r } ∧
    (f.b0.toNat % 32 = 0 → valOf r = some 6 ∧ poutOf r = some [f.b2, f.b3, f.b4, f.b5, f.b6, f.b7]) ∧
    (f.b0.toNat % 32 ≠ 0 →
      valOf r = some 7 ∧ poutOf r = some [f.b1, f.b2, f.b3, f.b4, f.b5, f.b6, f.b7])

/-- R108 (derived there): what ENCF and ENCC build, the accessors read back; byte 0 is `seq * 32 + idx` of every frame. -/
def Obligations.AccessorsReadBackEncoders : Prop :=
  (∀ (p : Payload6) (len seq : Byte) (s : State), s.dead = false → seq.toNat ≤ 7 →
    ∃ f : Frame,
      exec (.encf p len seq) s = .next { s with resp := some (.frame f) } ∧
      exec (.fseq f) s = .next { s with resp := some (.value seq) } ∧
      exec (.fidx f) s = .next { s with resp := some (.value 0) } ∧
      exec (.flen f) s = .next { s with resp := some (.optValue (some len)) } ∧
      exec (.fpay f) s = .next { s with resp := some (.view [p.p0, p.p1, p.p2, p.p3, p.p4, p.p5]) }) ∧
  (∀ (p : Payload7) (seq idx : Byte) (s : State), s.dead = false → seq.toNat ≤ 7 →
    1 ≤ idx.toNat → idx.toNat ≤ 31 →
    ∃ f : Frame,
      exec (.encc p seq idx) s = .next { s with resp := some (.frame f) } ∧
      exec (.fseq f) s = .next { s with resp := some (.value seq) } ∧
      exec (.fidx f) s = .next { s with resp := some (.value idx) } ∧
      exec (.flen f) s = .next { s with resp := some (.optValue none) } ∧
      exec (.fpay f) s =
        .next { s with resp := some (.view [p.p0, p.p1, p.p2, p.p3, p.p4, p.p5, p.p6]) }) ∧
  (∀ f : Frame, f.b0.toNat = (seqOf f).toNat * 32 + (idxOf f).toNat)

/-- R109: a codec operation's answer is a function of its request alone, it writes no state, it cannot fault, and only
ENCC can answer an error. -/
def Obligations.CodecAnswersFromRequestAlone : Prop :=
  ∀ i : Instr, isCodec i = true → ∃ r : Response,
    (∀ s : State, s.dead = false → exec i s = .next { s with resp := some r }) ∧
    ((∃ e, r = .error e) → ∃ p seq idx, i = .encc p seq idx)

/-! ## The receive path -/

/-- R120: NEWRX gives the empty Receive message, whatever was there. -/
def Obligations.NewrxGivesEmptyReceiveMessage : Prop :=
  ∀ s : State, s.dead = false →
    exec .newrx s = .next { s with
      dir := .rx, store := [], dfc := 0, tdl := 0, sid := 0, lfi := 0, resp := some .done }

/-- R122: ADDF on a Transmit message is TransmissionTypeMismatch, before every other test, and writes nothing. -/
def Obligations.AddfRefusesTransmitMessage : Prop :=
  ∀ (f : Frame) (s : State), s.dead = false → s.dir = .tx →
    exec (.addf f) s = .next { s with resp := some (.error .transmissionTypeMismatch) }

/-- R123: ADDF on a complete Receive message is FullQueue, whatever the frame, and writes nothing; on an empty message,
and on one whose count is not `dfc` (above it, too), it is not. -/
def Obligations.AddfRefusesCompleteMessage : Prop :=
  ∀ (f : Frame) (s : State), s.dead = false → s.dir = .rx →
    (count s ≠ 0 ∧ count s = s.dfc.toNat →
      exec (.addf f) s = .next { s with resp := some (.error .fullQueue) }) ∧
    (count s = 0 ∨ count s ≠ s.dfc.toNat →
      ∀ t, exec (.addf f) s = .next t → t.resp ≠ some (.error .fullQueue))

/-- R125: a first frame writes `dfc`, `sid`, `tdl`, `lfi`, is appended to the store, and answers whether one frame is all
(`f[1] <= 6`); every other register stays. With the store at `CAP` it is fault StoreOverflow. -/
def Obligations.AddfStoresFirstFrame : Prop :=
  ∀ (f : Frame) (s : State), s.dead = false → s.dir = .rx →
    ¬(count s ≠ 0 ∧ count s = s.dfc.toNat) → f.b0.toNat % 32 = 0 →
    (count s ≠ Config.cap →
      exec (.addf f) s = .next { s with
        dfc := BitVec.ofNat 6 (f.b1.toNat / 7 + 1)
        sid := BitVec.ofNat 3 (f.b0.toNat / 32)
        tdl := f.b1
        lfi := 0
        store := s.store ++ [f]
        resp := some (.flag (decide (f.b1.toNat ≤ 6))) }) ∧
    (count s = Config.cap → exec (.addf f) s = .fault .storeOverflow)

/-- R126: a consecutive frame of another sequence id is SequenceCountError, whatever its index, and writes nothing. -/
def Obligations.AddfRefusesOtherSequence : Prop :=
  ∀ (f : Frame) (s : State), s.dead = false → s.dir = .rx →
    ¬(count s ≠ 0 ∧ count s = s.dfc.toNat) → f.b0.toNat % 32 ≠ 0 → f.b0.toNat / 32 ≠ s.sid.toNat →
    exec (.addf f) s = .next { s with resp := some (.error .sequenceCountError) }

/-- R127: a consecutive frame of this sequence: SequenceMismatch unless its index is `lfi + 1`; then it is appended, `lfi`
becomes its index, and the answer is whether the index reaches `dfc - 1`; every other register stays. -/
def Obligations.AddfStoresNextFrameInOrder : Prop :=
  ∀ (f : Frame) (s : State), s.dead = false → s.dir = .rx →
    ¬(count s ≠ 0 ∧ count s = s.dfc.toNat) → f.b0.toNat % 32 ≠ 0 → f.b0.toNat / 32 = s.sid.toNat →
    (f.b0.toNat % 32 ≠ s.lfi.toNat + 1 →
      exec (.addf f) s = .next { s with resp := some (.error .sequenceMismatch) }) ∧
    (f.b0.toNat % 32 = s.lfi.toNat + 1 → count s ≠ Config.cap →
      exec (.addf f) s = .next { s with
        lfi := BitVec.ofNat 5 (f.b0.toNat % 32)
        store := s.store ++ [f]
        resp := some (.flag (f.b0.toNat % 32 + 1 == s.dfc.toNat)) }) ∧
    (f.b0.toNat % 32 = s.lfi.toNat + 1 → count s = Config.cap →
      exec (.addf f) s = .fault .storeOverflow)

/-- R134: a frame that has passed every check and meets a store of `CAP` frames is fault StoreOverflow. -/
def Obligations.AddfFaultsOnFullStore : Prop :=
  ∀ (f : Frame) (s : State), s.dead = false → accepts f s → count s = Config.cap →
    exec (.addf f) s = .fault .storeOverflow

/-- R131, R133: GETP answers `tdl` and the views of the stored frames, oldest first, from offset 0, `0xFF` after them;
the store is emptied and every register stays. That views beyond the port's 223 bytes are dropped is the model's choice
(log entry 6); by R132 no legal state has any. -/
def Obligations.GetpFlattensStore : Prop :=
  ∀ s : State, s.dead = false → ∃ pout : PayloadPort,
    exec .getp s = .next { s with store := [], resp := some (.payload s.tdl pout) } ∧
    pout.bytes = (s.store.flatMap payloadView).take 223 ++
      List.replicate (223 - (s.store.flatMap payloadView).length) 0xFF

/-- R132 (derived there): in a legal live state GETP has `7 * count` minus the number of first frames to write, and never
more than 223. -/
def Obligations.GetpNeverOverrunsPort : Prop :=
  ∀ s : State, Legal s → s.dead = false →
    (s.store.flatMap payloadView).length + (s.store.filter isFirst).length = 7 * count s ∧
    (s.store.flatMap payloadView).length ≤ 223

/-- R31 (derived there): in the intended use every accepted consecutive frame keeps the form of a reassembly, and a first
frame into an empty store begins one. -/
def Obligations.ReassemblyKeepsForm : Prop :=
  ∀ (f : Frame) (s t : State) (b : Bool), exec (.addf f) s = .next t → t.resp = some (.flag b) →
    ((isFirst f = true ∧ count s = 0) ∨ (isFirst f = false ∧ Assembling s)) →
    Assembling t ∧ (b = true ↔ count t = t.dfc.toNat)

/-! ## The transmit path -/

/-- R140: FROMP faults SegmentationPanic on a length above 223 or an id above 7, else StoreOverflow when the frames do not
fit the store. (With `CAP` = 32 the second test is never true.) -/
def Obligations.FrompEntryChecks : Prop :=
  ∀ (pin : PayloadPort) (len seq : Byte) (s : State), s.dead = false →
    (223 < len.toNat ∨ 7 < seq.toNat → exec (.fromp pin len seq) s = .fault .segmentationPanic) ∧
    (len.toNat ≤ 223 → seq.toNat ≤ 7 →
      (exec (.fromp pin len seq) s = .fault .storeOverflow ↔ Config.cap < len.toNat / 7 + 1))

/-- R141, R58: FROMP replaces the whole Message: every register has its value, the store has `L / 7 + 1` frames, and each
byte of each frame is where the layout puts it, with `0xFF` beyond the payload's end. -/
def Obligations.FrompBuildsEveryFrame : Prop :=
  ∀ (pin : PayloadPort) (len seq : Byte) (s : State), s.dead = false →
    len.toNat ≤ 223 → seq.toNat ≤ 7 → len.toNat / 7 + 1 ≤ Config.cap →
    ∃ t : State,
      exec (.fromp pin len seq) s = .next t ∧
      t = { s with
        dir := .tx, store := t.store, dfc := BitVec.ofNat 6 (len.toNat / 7 + 1), tdl := len
        sid := BitVec.ofNat 3 seq.toNat, lfi := 0, resp := some .done } ∧
      count t = len.toNat / 7 + 1 ∧
      storeByte t 0 1 = some len ∧
      (∀ j, j < 6 → storeByte t 0 (2 + j) =
        some (if j < len.toNat then pin.bytes.getD j 0 else 0xFF)) ∧
      (∀ k, k < len.toNat / 7 + 1 → storeByte t k 0 = some (BitVec.ofNat 8 (seq.toNat * 32 + k))) ∧
      (∀ k j, 1 ≤ k → k < len.toNat / 7 + 1 → j < 7 → storeByte t k (1 + j) =
        some (if 6 + 7 * (k - 1) + j < len.toNat then pin.bytes.getD (6 + 7 * (k - 1) + j) 0 else 0xFF))

/-- R57: FROMP ignores every `pin[p]` with `p >= len_in`: ports that agree below `len_in` give the same outcome. -/
def Obligations.FrompIgnoresBytesBeyondLength : Prop :=
  ∀ (pin pin' : PayloadPort) (len seq : Byte) (s : State),
    pin.bytes.take len.toNat = pin'.bytes.take len.toNat →
    exec (.fromp pin len seq) s = exec (.fromp pin' len seq) s

/-- R145: POPF answers the oldest frame and removes it, or `None` from an empty store; no register changes and the
direction is not tested. -/
def Obligations.PopfTakesOldestFrame : Prop :=
  ∀ s : State, s.dead = false →
    (∀ f rest, s.store = f :: rest →
      exec .popf s = .next { s with store := rest, resp := some (.optFrame (some f)) }) ∧
    (s.store = [] → exec .popf s = .next { s with resp := some (.optFrame none) })

/-- R145: successive POPF answer the stored frames in construction order, then `None` for ever. -/
def Obligations.PopfDrainsInOrder : Prop :=
  ∀ (s : State) (n : Nat), s.dead = false →
    ∃ t, popMany (n + 1) s = .next t ∧ t.resp = some (.optFrame s.store[n]?) ∧
      t.store = s.store.drop (n + 1) ∧ t.dfc = s.dfc ∧ t.tdl = s.tdl ∧ t.sid = s.sid ∧ t.lfi = s.lfi ∧ t.dir = s.dir

/-- R147 (derived there): the payload views of the frames FROMP builds are the payload followed by
`6 + 7*(n-1) - L` bytes of `0xFF`, at most six. -/
def Obligations.SegmentedViewsArePayload : Prop :=
  ∀ (pin : PayloadPort) (len : Byte) (seq : BitVec 3), len.toNat ≤ 223 →
    (segmentFrames pin len seq).flatMap payloadView =
      pin.bytes.take len.toNat ++
        List.replicate (6 + 7 * (framesFor len.toNat - 1) - len.toNat) 0xFF ∧
    6 + 7 * (framesFor len.toNat - 1) - len.toNat ≤ 6

/-- R121: the receive path derives from the first frame's length byte the count the transmit path wrote: 1 for a length
up to 6, else `length / 7 + 1`. -/
def Obligations.BothPathsCountFramesAlike : Prop :=
  ∀ (pin : PayloadPort) (len seq : Byte) (s t u v : State) (f : Frame),
    exec (.fromp pin len seq) s = .next t → s.dead = false → t.store[0]? = some f →
    exec .newrx t = .next u → exec (.addf f) u = .next v →
    v.dfc = t.dfc ∧ v.tdl = t.tdl ∧ v.sid = t.sid ∧
    v.dfc.toNat = (if len.toNat ≤ 6 then 1 else len.toNat / 7 + 1)

/-- R135 (derived there): the round trip: the frames FROMP builds, fed in order to a fresh Receive message, are all
accepted, the last one alone completing it; a further ADDF is FullQueue; GETP gives the length and the payload, `0xFF`
beyond it. -/
def Obligations.RoundTripReproducesPayload : Prop :=
  ∀ (pin : PayloadPort) (len seq : Byte) (s t u : State), s.dead = false →
    exec (.fromp pin len seq) s = .next t → exec .newrx t = .next u →
    (∀ k, k < count t → ∃ v, receiveAll (t.store.take (k + 1)) u = .next v ∧
      v.resp = some (.flag (k + 1 == count t))) ∧
    (∃ v, receiveAll t.store u = .next v ∧
      v.store = t.store ∧ count v = v.dfc.toNat ∧ v.tdl = len ∧ v.sid.toNat = seq.toNat ∧
      v.lfi.toNat = count v - 1 ∧
      (∀ f, exec (.addf f) v = .next { v with resp := some (.error .fullQueue) }) ∧
      ∃ pout : PayloadPort,
        exec .getp v = .next { v with store := [], resp := some (.payload len pout) } ∧
        pout.bytes = pin.bytes.take len.toNat ++ List.replicate (223 - len.toNat) 0xFF)

/-! ## Management -/

/-- R160: CLR gives the empty Receive message, in every live state and in both directions; it does not clear `dead`. -/
def Obligations.ClrGivesInitialMessage : Prop :=
  (∀ s : State, s.dead = false →
    exec .clr s = .next { s with
      dir := .rx, store := [], dfc := 0, tdl := 0, sid := 0, lfi := 0, resp := some .done }) ∧
  (∀ s t : State, s.dead = true → exec .clr s = .next t → t.dead = true)

/-- R211 (derived there): hardware reset, NEWRX and CLR lead to the same state but for the response, which reset does
not give. -/
def Obligations.ThreeWaysToInitialState : Prop :=
  ∀ (s : State) (rest : List HostAct), s.dead = false → s.requests = .hardwareReset :: rest →
    ∃ t u, step s = .next t ∧ exec .newrx { s with requests := rest } = .next u ∧
      exec .clr { s with requests := rest } = .next u ∧ u = { t with resp := some .done }

/-- R162: MCNT answers `dfc`. -/
def Obligations.McntAnswersDeclaredCount : Prop :=
  ∀ s : State, s.dead = false →
    exec .mcnt s = .next { s with resp := some (.value (BitVec.ofNat 8 s.dfc.toNat)) }

/-- R163: MSEQ answers `sid`. -/
def Obligations.MseqAnswersSequenceId : Prop :=
  ∀ s : State, s.dead = false →
    exec .mseq s = .next { s with resp := some (.value (BitVec.ofNat 8 s.sid.toNat)) }

/-- R164: MLEN answers `tdl`. -/
def Obligations.MlenAnswersDataLength : Prop :=
  ∀ s : State, s.dead = false → exec .mlen s = .next { s with resp := some (.value s.tdl) }

/-! ## Received wire frames (the model's reading of the two wire rows: log entry 3) -/

/-- R71, R125, log entry 3: a FRAME.FIRST received into a Receive message that is not complete and has room is stored as
ADDF stores a first frame; in every state it does what ADDF of its eight bytes does. -/
def Obligations.WireFirstFrameStored : Prop :=
  ∀ (seq : BitVec 3) (len : Byte) (p : Payload6) (s : State),
    exec (.frameFirst seq len p) s =
      exec (.addf ⟨BitVec.ofNat 8 (seq.toNat * 32), len, p.p0, p.p1, p.p2, p.p3, p.p4, p.p5⟩) s ∧
    (s.dead = false → s.dir = .rx → ¬(count s ≠ 0 ∧ count s = s.dfc.toNat) → count s ≠ Config.cap →
      exec (.frameFirst seq len p) s = .next { s with
        dfc := BitVec.ofNat 6 (len.toNat / 7 + 1)
        sid := seq
        tdl := len
        lfi := 0
        store := s.store ++
          [⟨BitVec.ofNat 8 (seq.toNat * 32), len, p.p0, p.p1, p.p2, p.p3, p.p4, p.p5⟩]
        resp := some (.flag (len.toNat / 7 + 1 == 1)) })

/-- R72, R127, log entry 3: a FRAME.CONSEC that is the next frame of the message in progress is stored as ADDF stores it;
in every state it does what ADDF of its eight bytes does. -/
def Obligations.WireConsecutiveFrameStored : Prop :=
  ∀ (seq : BitVec 3) (idx : BitVec 5) (p : Payload7) (s : State),
    exec (.frameConsec seq idx p) s =
      exec (.addf ⟨BitVec.ofNat 8 (seq.toNat * 32 + idx.toNat),
        p.p0, p.p1, p.p2, p.p3, p.p4, p.p5, p.p6⟩) s ∧
    (s.dead = false → s.dir = .rx → ¬(count s ≠ 0 ∧ count s = s.dfc.toNat) → count s ≠ Config.cap →
      seq = s.sid → idx.toNat = s.lfi.toNat + 1 →
      exec (.frameConsec seq idx p) s = .next { s with
        lfi := idx
        store := s.store ++
          [⟨BitVec.ofNat 8 (seq.toNat * 32 + idx.toNat), p.p0, p.p1, p.p2, p.p3, p.p4, p.p5, p.p6⟩]
        resp := some (.flag (idx.toNat + 1 == s.dfc.toNat)) })

/-! ## Errors and frames -/

/-- R181, R79: an instruction answers an error exactly when the table of errors says so, and `status` of its answer is that
error's code; `status` is 0x0 exactly when no error is raised, and no code above 0x6 is ever an instruction's. That a
received wire frame raises ADDF's errors is the model's reading of its row (log entry 3). -/
def Obligations.ErrorsExactlyWhenStated : Prop :=
  ∀ (i : Instr) (s : State), s.dead = false →
    (∀ e, (∃ t, exec i s = .next t ∧ t.resp = some (.error e)) ↔ raises i s e) ∧
    (∀ t r, exec i s = .next t → t.resp = some r →
      (statusOf r = 0x0 ↔ ∀ e, ¬ raises i s e) ∧
      (statusOf r = 0x1 ↔ raises i s .invalidParameter) ∧
      (statusOf r = 0x2 ↔ raises i s .emptyQueue) ∧
      (statusOf r = 0x3 ↔ raises i s .fullQueue) ∧
      (statusOf r = 0x4 ↔ raises i s .transmissionTypeMismatch) ∧
      (statusOf r = 0x5 ↔ raises i s .sequenceCountError) ∧
      (statusOf r = 0x6 ↔ raises i s .sequenceMismatch) ∧
      (statusOf r).toNat ≤ 0x6)

/-- R183: EmptyQueue is never raised, by any instruction in any state, nor by any step; POPF answers an empty store with
`None` and GETP with an all-`0xFF` buffer and `val = tdl`. -/
def Obligations.EmptyQueueNeverRaised : Prop :=
  (∀ (i : Instr) (s t : State), exec i s = .next t → t.resp ≠ some (.error .emptyQueue)) ∧
  (∀ s t : State, step s = .next t → t.resp ≠ some (.error .emptyQueue)) ∧
  (∀ s : State, s.dead = false → s.store = [] →
    exec .popf s = .next { s with resp := some (.optFrame none) } ∧
    ∃ pout : PayloadPort, pout.bytes = List.replicate 223 0xFF ∧
      exec .getp s = .next { s with resp := some (.payload s.tdl pout) })

/-- R186: an error leaves every register and the store exactly as they were. -/
def Obligations.ErrorLeavesStateUnchanged : Prop :=
  ∀ (i : Instr) (s t : State) (e : ErrorCode), exec i s = .next t → t.resp = some (.error e) →
    t = { s with resp := some (.error e) }

/-- R40 (derived there), R21, R25: which registers each instruction leaves alone: `dir` but for NEWRX, CLR, FROMP; `dfc`,
`tdl`, `sid` but for those and an offered first frame; `lfi` but for those and an offered frame; the fault latch, the
request stream and the free counter always. Received wire frames count as offered frames (log entry 3). -/
def Obligations.RegistersKeptUnlessWritten : Prop :=
  ∀ (i : Instr) (s t : State), exec i s = .next t →
    t.dead = s.dead ∧ t.requests = s.requests ∧ t.freeCtr = s.freeCtr ∧
    (replacesMessage i = false → t.dir = s.dir) ∧
    (replacesMessage i = false → (∀ f, offered i = some f → isFirst f = false) →
      t.dfc = s.dfc ∧ t.tdl = s.tdl ∧ t.sid = s.sid) ∧
    (replacesMessage i = false → offered i = none → t.lfi = s.lfi)

/-- R27, R40 (derived there): what each instruction leaves of the store, byte by byte: an offered frame leaves every frame
before it; POPF moves each frame one place to the front; an instruction that neither replaces the Message nor offers,
pops or flattens leaves every byte. Received wire frames count as offered frames (log entry 3). -/
def Obligations.StoreBytesKeptUnlessMoved : Prop :=
  ∀ (i : Instr) (s t : State), exec i s = .next t →
    (∀ f, offered i = some f → ∀ k j, k < count s → storeByte t k j = storeByte s k j) ∧
    (i = .popf → s.dead = false → ∀ k j, storeByte t k j = storeByte s (k + 1) j) ∧
    (replacesMessage i = false → offered i = none → i ≠ .popf → i ≠ .getp →
      ∀ k j, storeByte t k j = storeByte s k j)

/-- R166, R167 (derived there): the phase after each instruction that answers a live block; a received wire frame follows
ADDF's rows (log entry 3). -/
def Obligations.PhasesFollowTransitionTable : Prop :=
  ∀ (i : Instr) (s t : State), s.dead = false → exec i s = .next t →
    (i = .newrx ∨ i = .clr → phase t = .rxEmpty) ∧
    ((∃ pin len seq, i = .fromp pin len seq) → phase t = .txLoaded) ∧
    (i = .getp → phase t = if s.dir = .tx then .txEmpty else .rxEmpty) ∧
    (i = .popf → phase s = .txLoaded → phase t = if count s = 1 then .txEmpty else .txLoaded) ∧
    (i = .popf → count s = 1 → s.dir = .rx → phase t = .rxEmpty) ∧
    (i = .popf → count s = 0 → phase t = phase s) ∧
    (∀ f b, offered i = some f → t.resp = some (.flag b) → phase t = phaseAfterAdd f s) ∧
    ((∃ e, t.resp = some (.error e)) → phase t = phase s) ∧
    (replacesMessage i = false → offered i = none → i ≠ .popf → i ≠ .getp → phase t = phase s)

/-! ## The invariant -/

/-- R30, R39: the state after hardware reset is legal. -/
def Obligations.ResetIsLegal : Prop := Legal State.reset

/-- R30, R132 (derived there): every step from a legal state, whatever the host does, gives a legal state: the store holds
at most `CAP` frames (R27), and of a live block `dfc` is at most 37, a Transmit message is the tail of what FROMP built,
and a Receive message has at the end of its store no run of consecutive frames longer than `lfi` (an earlier run may be
longer, R128). That the store of a dead block, unspecified by R190, still holds at most `CAP` frames is the model's
choice (log entry 9). -/
def Obligations.StepKeepsLegal : Prop :=
  ∀ s t : State, Legal s → step s = .next t → Legal t
end

