-- ==== Sys2Proof/Laws/Operands.lean ====
section
/-! SUPPORT. Laws/Operands.lean: what the field functions, the ports and the segmentation do, one lemma each. -/

namespace Sys2Proof.Machine

/-! ## Byte 0 -/

@[simp] theorem packByte0_seq (s : BitVec 3) (i : BitVec 5) : (packByte0 s i).extractLsb' 5 3 = s := by
  unfold packByte0; ext k hk
  rw [BitVec.getElem_extractLsb', show BitVec.getLsbD (s ++ i : Byte) (5 + k) = _ from BitVec.getLsbD_append,
    if_neg (by omega), Nat.add_sub_cancel_left, BitVec.getLsbD_eq_getElem hk]

@[simp] theorem packByte0_idx (s : BitVec 3) (i : BitVec 5) : (packByte0 s i).extractLsb' 0 5 = i := by
  unfold packByte0; ext k hk
  rw [BitVec.getElem_extractLsb', Nat.zero_add, show BitVec.getLsbD (s ++ i : Byte) k = _ from BitVec.getLsbD_append,
    if_pos hk, BitVec.getLsbD_eq_getElem hk]

/-- Byte 0 as a number: `sequence_id * 32 + frame_index` (R70). -/
theorem packByte0_toNat (s : BitVec 3) (i : BitVec 5) : (packByte0 s i).toNat = s.toNat * 32 + i.toNat := by
  unfold packByte0
  rw [BitVec.toNat_append, ← Nat.shiftLeft_add_eq_or_of_lt i.isLt, Nat.shiftLeft_eq]

/-- Splitting byte 0 and packing it again gives it back. -/
theorem packByte0_split (b : Byte) : packByte0 (b.extractLsb' 5 3) (b.extractLsb' 0 5) = b := by
  unfold packByte0; ext k hk
  rw [BitVec.getElem_append]
  split <;> rename_i h
  · rw [BitVec.getElem_extractLsb']; simp [BitVec.getLsbD_eq_getElem hk]
  · rw [BitVec.getElem_extractLsb', show 5 + (k - 5) = k by omega, BitVec.getLsbD_eq_getElem hk]

@[simp] theorem seqOf_packFirst (s : BitVec 3) (l : Byte) (p : Payload6) : seqOf (packFirst s l p) = s :=
  packByte0_seq s 0

@[simp] theorem idxOf_packFirst (s : BitVec 3) (l : Byte) (p : Payload6) : idxOf (packFirst s l p) = 0 :=
  packByte0_idx s 0

@[simp] theorem isFirst_packFirst (s : BitVec 3) (l : Byte) (p : Payload6) : isFirst (packFirst s l p) = true := by
  simp [isFirst]

@[simp] theorem packFirst_b1 (s : BitVec 3) (l : Byte) (p : Payload6) : (packFirst s l p).b1 = l := rfl

@[simp] theorem seqOf_packConsec (s : BitVec 3) (i : BitVec 5) (p : Payload7) : seqOf (packConsec s i p) = s :=
  packByte0_seq s i

@[simp] theorem idxOf_packConsec (s : BitVec 3) (i : BitVec 5) (p : Payload7) : idxOf (packConsec s i p) = i :=
  packByte0_idx s i

@[simp] theorem isFirst_packConsec (s : BitVec 3) (i : BitVec 5) (p : Payload7) :
    isFirst (packConsec s i p) = (i == 0) := by
  simp [isFirst]

theorem isFirst_iff (f : Frame) : isFirst f = true ↔ idxOf f = 0 := by simp [isFirst]

theorem seqField_toNat {s : Byte} (h : s.toNat ≤ 7) : (seqField s).toNat = s.toNat := by
  simp only [seqField, BitVec.toNat_setWidth]; omega

theorem idxField_toNat {i : Byte} (h : i.toNat ≤ 31) : (idxField i).toNat = i.toNat := by
  simp only [idxField, BitVec.toNat_setWidth]; omega

/-! ## Frame counts -/

theorem framesFor_pos (n : Nat) : 0 < framesFor n := Nat.succ_pos _

theorem framesFor_le {n : Nat} (h : n ≤ 255) : framesFor n ≤ 37 := by unfold framesFor; omega

theorem framesFor_le_of_payload {n : Nat} (h : n ≤ 223) : framesFor n ≤ 32 := by unfold framesFor; omega

/-- A frame count fits the six bits of `dfc` (R22). -/
theorem framesFor_byte_toNat (b : Byte) : (BitVec.ofNat 6 (framesFor b.toNat)).toNat = framesFor b.toNat := by
  have := b.isLt
  simp only [BitVec.toNat_ofNat]
  apply Nat.mod_eq_of_lt; unfold framesFor; omega

/-! ## Payload views -/

theorem payloadView_length (f : Frame) : (payloadView f).length = if isFirst f then 6 else 7 := by
  unfold payloadView; split <;> rfl

theorem payloadView_packFirst (s : BitVec 3) (l : Byte) (p : Payload6) :
    payloadView (packFirst s l p) = [p.p0, p.p1, p.p2, p.p3, p.p4, p.p5] := by
  simp [payloadView]; simp [packFirst]

theorem payloadView_packConsec (s : BitVec 3) {i : BitVec 5} (p : Payload7) (h : i ≠ 0#5) :
    payloadView (packConsec s i p) = [p.p0, p.p1, p.p2, p.p3, p.p4, p.p5, p.p6] := by
  simp [payloadView, h]; simp [packConsec]

/-! ## Ports -/

theorem portByte_eq (pin : PayloadPort) (p : Nat) (h : p < 223) :
    portByte pin p = pin.bytes[p]'(by rw [pin.size]; exact h) := by
  simp [portByte, List.getD_eq_getElem?_getD, List.getElem?_eq_getElem (show p < pin.bytes.length by rw [pin.size]; exact h)]

/-- A port has its first seven bytes, and more. -/
theorem port_first_seven (pin : PayloadPort) :
    ∃ a b c d e f g rest, pin.bytes = a :: b :: c :: d :: e :: f :: g :: rest := by
  obtain ⟨l, h⟩ := pin
  rcases l with _ | ⟨a, _ | ⟨b, _ | ⟨c, _ | ⟨d, _ | ⟨e, _ | ⟨f, _ | ⟨g, t⟩⟩⟩⟩⟩⟩⟩ <;> simp at h
  exact ⟨_, _, _, _, _, _, _, _, rfl⟩

/-- `pin[0..5]` is the first six bytes of the port, and no other. -/
theorem portSix_eq_iff (pin : PayloadPort) (p : Payload6) :
    portSix pin = p ↔ pin.bytes.take 6 = [p.p0, p.p1, p.p2, p.p3, p.p4, p.p5] := by
  obtain ⟨a, b, c, d, e, f, g, t, h⟩ := port_first_seven pin
  cases p
  simp [portSix, portByte, h]

/-- `pin[0..6]` is the first seven bytes of the port, and no other. -/
theorem portSeven_eq_iff (pin : PayloadPort) (p : Payload7) :
    portSeven pin = p ↔ pin.bytes.take 7 = [p.p0, p.p1, p.p2, p.p3, p.p4, p.p5, p.p6] := by
  obtain ⟨a, b, c, d, e, f, g, t, h⟩ := port_first_seven pin
  cases p
  simp [portSeven, portByte, h]

/-- `pin[0..5]` of a port that begins with six bytes. -/
theorem portSix_portOf (p : Payload6) (b : Byte) : portSix (portOf [p.p0, p.p1, p.p2, p.p3, p.p4, p.p5] b) = p := rfl

/-- `pin[0..6]` of a port that begins with seven bytes. -/
theorem portSeven_portOf (p : Payload7) (b : Byte) :
    portSeven (portOf [p.p0, p.p1, p.p2, p.p3, p.p4, p.p5, p.p6] b) = p := rfl

@[simp] theorem portSet_bytes (out : PayloadPort) (a : Nat) (b : Byte) : (portSet out a b).bytes = out.bytes.set a b := rfl

/-- `MemWrite` of `v` at offset `a`: the bytes of `v` that have a place, and every other byte as it was (R9). -/
theorem memWrite_getElem? (v : List Byte) (out : PayloadPort) (a p : Nat) (hp : p < 223) :
    (memWrite out a v).bytes[p]? = if a ≤ p ∧ p < a + v.length then v[p - a]? else out.bytes[p]? := by
  induction v generalizing out a with
  | nil => rw [memWrite, if_neg (by simp only [List.length_nil]; omega)]
  | cons b v ih =>
    rw [memWrite, ih, portSet_bytes, List.getElem?_set]
    have hs := out.size
    by_cases h : p = a
    · subst h; simp [hs, hp]
    · by_cases h1 : a + 1 ≤ p ∧ p < a + 1 + v.length
      · rw [if_pos h1, if_pos (by simp only [List.length_cons]; omega)]
        rw [show p - a = (p - (a + 1)) + 1 by omega, List.getElem?_cons_succ]
      · rw [if_neg h1, if_neg (by omega), if_neg (by simp only [List.length_cons]; omega)]

/-! ## Segmentation -/

@[simp] theorem segmentFrames_length (pin : PayloadPort) (len : Byte) (seq : BitVec 3) :
    (segmentFrames pin len seq).length = framesFor len.toNat := by
  simp only [segmentFrames, List.length_cons, List.length_map, List.length_range]
  have := framesFor_pos len.toNat; omega

theorem segmentFrames_zero (pin : PayloadPort) (len : Byte) (seq : BitVec 3) :
    (segmentFrames pin len seq)[0]? = some (segmentFirst pin len seq) := rfl

theorem segmentFrames_succ (pin : PayloadPort) (len : Byte) (seq : BitVec 3) {k : Nat} (h : k + 1 < framesFor len.toNat) :
    (segmentFrames pin len seq)[k + 1]? = some (segmentConsec pin len seq (k + 1)) := by
  simp only [segmentFrames, List.getElem?_cons_succ, List.getElem?_map]
  rw [List.getElem?_range (by omega)]; rfl

/-! ## Wire frames -/

theorem packFirst_split {f : Frame} (h : isFirst f = true) : packFirst (seqOf f) f.b1 (firstPayload f) = f := by
  have h0 : idxOf f = 0 := (isFirst_iff f).mp h
  have hb := packByte0_split f.b0
  unfold idxOf at h0
  rw [h0] at hb
  cases f; simp only [packFirst, firstPayload, seqOf] at *; rw [hb]

theorem packConsec_split (f : Frame) : packConsec (seqOf f) (idxOf f) (consecPayload f) = f := by
  have hb := packByte0_split f.b0
  cases f; simp only [packConsec, consecPayload, seqOf, idxOf] at *; rw [hb]

end Sys2Proof.Machine
end

