-- ==== Sys2Proof/Laws/State.lean ====
section
/-! SUPPORT. Laws/State.lean: one lemma per field per update of the state, so that no later proof unfolds a record update. -/

namespace Sys2Proof.Machine

@[simp] theorem initMessage_dir (s : State) : (initMessage s).dir = .rx := rfl
@[simp] theorem initMessage_dfc (s : State) : (initMessage s).dfc = 0 := rfl
@[simp] theorem initMessage_tdl (s : State) : (initMessage s).tdl = 0 := rfl
@[simp] theorem initMessage_sid (s : State) : (initMessage s).sid = 0 := rfl
@[simp] theorem initMessage_lfi (s : State) : (initMessage s).lfi = 0 := rfl
@[simp] theorem initMessage_store (s : State) : (initMessage s).store = [] := rfl
@[simp] theorem initMessage_dead (s : State) : (initMessage s).dead = s.dead := rfl
@[simp] theorem initMessage_requests (s : State) : (initMessage s).requests = s.requests := rfl
@[simp] theorem initMessage_resp (s : State) : (initMessage s).resp = s.resp := rfl
@[simp] theorem initMessage_freeCtr (s : State) : (initMessage s).freeCtr = s.freeCtr := rfl

@[simp] theorem hardwareReset_dir (s : State) : (hardwareReset s).dir = .rx := rfl
@[simp] theorem hardwareReset_dfc (s : State) : (hardwareReset s).dfc = 0 := rfl
@[simp] theorem hardwareReset_tdl (s : State) : (hardwareReset s).tdl = 0 := rfl
@[simp] theorem hardwareReset_sid (s : State) : (hardwareReset s).sid = 0 := rfl
@[simp] theorem hardwareReset_lfi (s : State) : (hardwareReset s).lfi = 0 := rfl
@[simp] theorem hardwareReset_store (s : State) : (hardwareReset s).store = [] := rfl
@[simp] theorem hardwareReset_dead (s : State) : (hardwareReset s).dead = false := rfl
@[simp] theorem hardwareReset_requests (s : State) : (hardwareReset s).requests = s.requests := rfl
@[simp] theorem hardwareReset_resp (s : State) : (hardwareReset s).resp = none := rfl
@[simp] theorem hardwareReset_freeCtr (s : State) : (hardwareReset s).freeCtr = s.freeCtr := rfl

@[simp] theorem silent_dir (s : State) : (silent s).dir = s.dir := rfl
@[simp] theorem silent_dfc (s : State) : (silent s).dfc = s.dfc := rfl
@[simp] theorem silent_tdl (s : State) : (silent s).tdl = s.tdl := rfl
@[simp] theorem silent_sid (s : State) : (silent s).sid = s.sid := rfl
@[simp] theorem silent_lfi (s : State) : (silent s).lfi = s.lfi := rfl
@[simp] theorem silent_store (s : State) : (silent s).store = s.store := rfl
@[simp] theorem silent_dead (s : State) : (silent s).dead = s.dead := rfl
@[simp] theorem silent_requests (s : State) : (silent s).requests = s.requests := rfl
@[simp] theorem silent_resp (s : State) : (silent s).resp = none := rfl
@[simp] theorem silent_freeCtr (s : State) : (silent s).freeCtr = s.freeCtr := rfl

@[simp] theorem pushBack_dir (f : Frame) (s : State) : (pushBack f s).dir = s.dir := rfl
@[simp] theorem pushBack_dfc (f : Frame) (s : State) : (pushBack f s).dfc = s.dfc := rfl
@[simp] theorem pushBack_tdl (f : Frame) (s : State) : (pushBack f s).tdl = s.tdl := rfl
@[simp] theorem pushBack_sid (f : Frame) (s : State) : (pushBack f s).sid = s.sid := rfl
@[simp] theorem pushBack_lfi (f : Frame) (s : State) : (pushBack f s).lfi = s.lfi := rfl
@[simp] theorem pushBack_store (f : Frame) (s : State) : (pushBack f s).store = s.store ++ [f] := rfl
@[simp] theorem pushBack_dead (f : Frame) (s : State) : (pushBack f s).dead = s.dead := rfl
@[simp] theorem pushBack_requests (f : Frame) (s : State) : (pushBack f s).requests = s.requests := rfl
@[simp] theorem pushBack_resp (f : Frame) (s : State) : (pushBack f s).resp = s.resp := rfl
@[simp] theorem pushBack_freeCtr (f : Frame) (s : State) : (pushBack f s).freeCtr = s.freeCtr := rfl

@[simp] theorem loadMessage_dir (pin : PayloadPort) (len seq : Byte) (s : State) : (loadMessage pin len seq s).dir = .tx := rfl
@[simp] theorem loadMessage_dfc (pin : PayloadPort) (len seq : Byte) (s : State) : (loadMessage pin len seq s).dfc = BitVec.ofNat 6 (framesFor len.toNat) := rfl
@[simp] theorem loadMessage_tdl (pin : PayloadPort) (len seq : Byte) (s : State) : (loadMessage pin len seq s).tdl = len := rfl
@[simp] theorem loadMessage_sid (pin : PayloadPort) (len seq : Byte) (s : State) : (loadMessage pin len seq s).sid = seqField seq := rfl
@[simp] theorem loadMessage_lfi (pin : PayloadPort) (len seq : Byte) (s : State) : (loadMessage pin len seq s).lfi = 0 := rfl
@[simp] theorem loadMessage_store (pin : PayloadPort) (len seq : Byte) (s : State) : (loadMessage pin len seq s).store = segmentFrames pin len (seqField seq) := rfl
@[simp] theorem loadMessage_dead (pin : PayloadPort) (len seq : Byte) (s : State) : (loadMessage pin len seq s).dead = s.dead := rfl
@[simp] theorem loadMessage_requests (pin : PayloadPort) (len seq : Byte) (s : State) : (loadMessage pin len seq s).requests = s.requests := rfl
@[simp] theorem loadMessage_resp (pin : PayloadPort) (len seq : Byte) (s : State) : (loadMessage pin len seq s).resp = s.resp := rfl
@[simp] theorem loadMessage_freeCtr (pin : PayloadPort) (len seq : Byte) (s : State) : (loadMessage pin len seq s).freeCtr = s.freeCtr := rfl

@[simp] theorem takeFault_store (s : State) : (takeFault s).store = (Config.freeStore s.freeCtr).take Config.cap := rfl
@[simp] theorem takeFault_dead (s : State) : (takeFault s).dead = true := rfl
@[simp] theorem takeFault_requests (s : State) : (takeFault s).requests = s.requests := rfl
@[simp] theorem takeFault_resp (s : State) : (takeFault s).resp = none := rfl
@[simp] theorem takeFault_freeCtr (s : State) : (takeFault s).freeCtr = s.freeCtr + 1 := rfl

@[simp] theorem enqueue_dir (w : Raw) (s : State) : (enqueue w s).dir = s.dir := rfl
@[simp] theorem enqueue_dfc (w : Raw) (s : State) : (enqueue w s).dfc = s.dfc := rfl
@[simp] theorem enqueue_tdl (w : Raw) (s : State) : (enqueue w s).tdl = s.tdl := rfl
@[simp] theorem enqueue_sid (w : Raw) (s : State) : (enqueue w s).sid = s.sid := rfl
@[simp] theorem enqueue_lfi (w : Raw) (s : State) : (enqueue w s).lfi = s.lfi := rfl
@[simp] theorem enqueue_store (w : Raw) (s : State) : (enqueue w s).store = s.store := rfl
@[simp] theorem enqueue_dead (w : Raw) (s : State) : (enqueue w s).dead = s.dead := rfl
@[simp] theorem enqueue_requests (w : Raw) (s : State) : (enqueue w s).requests = .issue w :: s.requests := rfl
@[simp] theorem enqueue_resp (w : Raw) (s : State) : (enqueue w s).resp = s.resp := rfl
@[simp] theorem enqueue_freeCtr (w : Raw) (s : State) : (enqueue w s).freeCtr = s.freeCtr := rfl

@[simp] theorem reset_dir : State.reset.dir = .rx := rfl
@[simp] theorem reset_dfc : State.reset.dfc = 0 := rfl
@[simp] theorem reset_tdl : State.reset.tdl = 0 := rfl
@[simp] theorem reset_sid : State.reset.sid = 0 := rfl
@[simp] theorem reset_lfi : State.reset.lfi = 0 := rfl
@[simp] theorem reset_store : State.reset.store = [] := rfl
@[simp] theorem reset_dead : State.reset.dead = false := rfl
@[simp] theorem reset_requests : State.reset.requests = [] := rfl
@[simp] theorem reset_resp : State.reset.resp = none := rfl
@[simp] theorem reset_freeCtr : State.reset.freeCtr = 0 := rfl

end Sys2Proof.Machine
end

