-- ==== Sys2Proof/Laws/Ops.lean ====
section
/-! SUPPORT. Laws/Ops.lean: what each shared test and operation can do, said once, for later proofs to cite. -/

namespace Sys2Proof.Machine

/-! ## The capacity -/

theorem cap_cases : Config.cap = 31 ∨ Config.cap = 32 := by
  unfold Config.cap
  cases Config.capChoice
  · exact .inl rfl
  · exact .inr rfl

theorem cap_ge : 31 ≤ Config.cap := by rcases cap_cases with h | h <;> omega

theorem cap_le : Config.cap ≤ 32 := by rcases cap_cases with h | h <;> omega

/-- `atCapacity` is the spec's `count == CAP` (R134). -/
theorem atCapacity_iff (n : Nat) : atCapacity n = true ↔ n = Config.cap := by
  have := cap_ge
  simp only [atCapacity, Bool.and_eq_true, decide_eq_true_eq]; omega

/-- `overCapacity` is the spec's `n > CAP` (R140). -/
theorem overCapacity_iff (n : Nat) : overCapacity n = true ↔ Config.cap < n := by
  have := cap_ge
  simp only [overCapacity, Bool.and_eq_true, decide_eq_true_eq]; omega

/-! ## The tests -/

theorem messageFull_iff (s : State) : messageFull s = true ↔ count s ≠ 0 ∧ count s = s.dfc.toNat := by
  simp [messageFull]

theorem inOrder_iff (f : Frame) (s : State) : inOrder f s = true ↔ (idxOf f).toNat = s.lfi.toNat + 1 := by
  simp [inOrder]

theorem badPrecondition_iff (len seq : Byte) :
    badPrecondition len seq = true ↔ 223 < len.toNat ∨ 7 < seq.toNat := by
  unfold badPrecondition; rw [Bool.or_eq_true, decide_eq_true_eq, decide_eq_true_eq]; exact Iff.rfl

theorem firstCompletes_iff (f : Frame) : firstCompletes f = true ↔ f.b1.toNat ≤ 6 := by
  simp only [firstCompletes, framesFor, beq_iff_eq]; omega

/-! ## Answers -/

theorem whenLive_live {s : State} (h : s.dead = false) (k : Result) : whenLive s k = k := by
  simp [whenLive, h]

theorem whenLive_dead {s : State} (h : s.dead = true) (k : Result) : whenLive s k = .next (silent s) := by
  simp [whenLive, h]

/-- An operation answers a next state in one of two ways: silently on a dead block, or as its own body does. -/
theorem whenLive_next {s t : State} {k : Result} (h : whenLive s k = .next t) :
    (s.dead = true ∧ t = silent s) ∨ (s.dead = false ∧ k = .next t) := by
  unfold whenLive at h
  split at h <;> rename_i hd
  · cases h; exact .inl ⟨hd, rfl⟩
  · exact .inr ⟨by simpa using hd, h⟩

theorem respond_next {r : Response} {s t : State} (h : respond r s = .next t) : t = { s with resp := some r } := by
  cases h; rfl

theorem encConsec_eq (p : Payload7) (s i : Byte) :
    encConsec p s i = if 7 < s.toNat ∨ 31 < i.toNat then none else some (packConsec (seqField s) (idxField i) p) := rfl

/-! ## Adding a frame -/

theorem storeFrame_room {s : State} (h : count s ≠ Config.cap) (f : Frame) (b : Bool) :
    storeFrame f b s = respond (.flag b) (pushBack f s) := by
  unfold storeFrame; rw [if_neg]; rw [atCapacity_iff]; exact h

theorem storeFrame_full {s : State} (h : count s = Config.cap) (f : Frame) (b : Bool) :
    storeFrame f b s = .fault .storeOverflow := by
  unfold storeFrame; rw [if_pos]; rw [atCapacity_iff]; exact h

theorem storeFrame_next {s t : State} {f : Frame} {b : Bool} (h : storeFrame f b s = .next t) :
    count s ≠ Config.cap ∧ t = { pushBack f s with resp := some (.flag b) } := by
  by_cases hc : count s = Config.cap
  · rw [storeFrame_full hc] at h; cases h
  · rw [storeFrame_room hc] at h; exact ⟨hc, respond_next h⟩

/-- Everything ADDF's body can answer: an error with no change, or the frame stored with the metadata of its kind. -/
theorem addFrame_next {s t : State} {f : Frame} (h : addFrame f s = .next t) :
    (∃ e, t = { s with resp := some (.error e) }) ∨
    (s.dir = .rx ∧ messageFull s = false ∧ isFirst f = true ∧ count s ≠ Config.cap ∧
      t = { s with
            dfc := BitVec.ofNat 6 (framesFor f.b1.toNat), sid := seqOf f, tdl := f.b1, lfi := 0
            store := s.store ++ [f], resp := some (.flag (firstCompletes f)) }) ∨
    (s.dir = .rx ∧ messageFull s = false ∧ isFirst f = false ∧ seqOf f = s.sid ∧
      (idxOf f).toNat = s.lfi.toNat + 1 ∧ count s ≠ Config.cap ∧
      t = { s with
            lfi := idxOf f, store := s.store ++ [f], resp := some (.flag (consecCompletes f s)) }) := by
  unfold addFrame at h
  split at h
  · exact .inl ⟨_, respond_next h⟩
  rename_i hdir
  have hrx : s.dir = .rx := by cases hd : s.dir <;> simp_all
  split at h
  · exact .inl ⟨_, respond_next h⟩
  rename_i hfull
  have hfull' : messageFull s = false := by simpa using hfull
  split at h
  · rename_i hf
    obtain ⟨hc, rfl⟩ := storeFrame_next h
    exact .inr (.inl ⟨hrx, hfull', hf, hc, rfl⟩)
  · rename_i hf
    unfold addConsec at h
    split at h
    · exact .inl ⟨_, respond_next h⟩
    rename_i hs
    split at h
    · rename_i ho
      obtain ⟨hc, rfl⟩ := storeFrame_next h
      exact .inr (.inr ⟨hrx, hfull', by simpa using hf, by simpa using hs, (inOrder_iff f s).mp ho, hc, rfl⟩)
    · exact .inl ⟨_, respond_next h⟩

/-! ## Taking the host's action -/

theorem nextAct_nil {s : State} (h : s.requests = []) : nextAct s = none := by simp [nextAct, h]

theorem nextAct_cons {s : State} {a : HostAct} {rest : List HostAct} (h : s.requests = a :: rest) :
    nextAct s = some (a, { s with requests := rest }) := by simp [nextAct, h]

/-- Everything a step can do, by what the host's next action is. -/
theorem step_cases (s : State) :
    (s.requests = [] ∧ step s = .next (silent s)) ∨
    (∃ rest, s.requests = .hardwareReset :: rest ∧
      step s = .next (hardwareReset { s with requests := rest })) ∨
    (∃ w rest, s.requests = .issue w :: rest ∧
      step s = settle { s with requests := rest } (serve w { s with requests := rest })) := by
  unfold step
  rcases hq : s.requests with _ | ⟨_ | _, rest⟩
  · rw [nextAct_nil hq]; exact .inl ⟨rfl, rfl⟩
  · rw [nextAct_cons hq]; exact .inr (.inr ⟨_, rest, rfl, rfl⟩)
  · rw [nextAct_cons hq]; exact .inr (.inl ⟨rest, rfl, rfl⟩)

end Sys2Proof.Machine
end

