-- ==== Sys2Proof/Laws/Memory.lean ====
section
/-! SUPPORT. Laws/Memory.lean: every operation on the frame store keeps its canonical form, at most `CAP` frames
(spec/10_state.md R27). -/

namespace Sys2Proof.Machine

theorem wf_reset : Memory.wf State.reset.store := Nat.zero_le _

theorem wf_initMessage (s : State) : Memory.wf (initMessage s).store := Nat.zero_le _

theorem wf_pushBack {s : State} {f : Frame} (h : Memory.wf s.store) (hc : count s ≠ Config.cap) :
    Memory.wf (pushBack f s).store := by
  simp only [Memory.wf, count, pushBack_store, List.length_append, List.length_singleton] at *; omega

theorem wf_popFront {f : Frame} {rest : List Frame} (h : Memory.wf (f :: rest)) : Memory.wf rest := by
  simp only [Memory.wf, List.length_cons] at *; omega

theorem wf_loadMessage {pin : PayloadPort} {len seq : Byte} (s : State)
    (h : overCapacity (framesFor len.toNat) = false) : Memory.wf (loadMessage pin len seq s).store := by
  have : ¬ overCapacity (framesFor len.toNat) = true := by simp [h]
  rw [overCapacity_iff] at this
  simp only [Memory.wf, loadMessage_store, segmentFrames_length]; omega

theorem wf_takeFault (s : State) : Memory.wf (takeFault s).store := by
  simp only [Memory.wf, takeFault_store, List.length_take]; omega

/-- A pushed frame leaves every byte of the frames before it as it was. -/
theorem storeByte_pushBack {s : State} (f : Frame) {k : Nat} (h : k < count s) (j : Nat) :
    storeByte (pushBack f s) k j = storeByte s k j := by
  simp only [storeByte, pushBack_store, count] at *
  rw [List.getElem?_append_left h]

end Sys2Proof.Machine
end

