-- ==== Sys2Proof/Laws/PerInstr.lean ====
section
/-! SUPPORT. Laws/PerInstr.lean: the family `TableRow`: what is handed over for each instruction carries its row's code. -/

namespace Sys2Proof.Laws.TableRow

open Machine

/-- An operation's request carries the `op` of its row of R80; a wire format is its row of R71 or R72, told by the low
five bits of byte 0. -/
def Statement (i : Instr) : Prop :=
  i.wf = true →
  match i, encode i with
  | .frameFirst _ _ _, .wire f => isFirst f = true
  | .frameConsec _ _ _, .wire f => isFirst f = false
  | .encf _ _ _, .request r => r.op = 0x00#5
  | .encc _ _ _, .request r => r.op = 0x01#5
  | .dec _, .request r => r.op = 0x02#5
  | .fseq _, .request r => r.op = 0x03#5
  | .fidx _, .request r => r.op = 0x04#5
  | .fisf _, .request r => r.op = 0x05#5
  | .flen _, .request r => r.op = 0x06#5
  | .fpay _, .request r => r.op = 0x07#5
  | .newrx, .request r => r.op = 0x08#5
  | .addf _, .request r => r.op = 0x09#5
  | .getp, .request r => r.op = 0x0A#5
  | .fromp _ _ _, .request r => r.op = 0x0B#5
  | .popf, .request r => r.op = 0x0C#5
  | .clr, .request r => r.op = 0x0D#5
  | .mcnt, .request r => r.op = 0x0E#5
  | .mseq, .request r => r.op = 0x0F#5
  | .mlen, .request r => r.op = 0x10#5
  | _, _ => False

theorem encf (p : Payload6) (len seq : Byte) : Statement (.encf p len seq) := fun _ => rfl
theorem encc (p : Payload7) (seq idx : Byte) : Statement (.encc p seq idx) := fun _ => rfl
theorem dec (fin : Frame) : Statement (.dec fin) := fun _ => rfl
theorem fseq (fin : Frame) : Statement (.fseq fin) := fun _ => rfl
theorem fidx (fin : Frame) : Statement (.fidx fin) := fun _ => rfl
theorem fisf (fin : Frame) : Statement (.fisf fin) := fun _ => rfl
theorem flen (fin : Frame) : Statement (.flen fin) := fun _ => rfl
theorem fpay (fin : Frame) : Statement (.fpay fin) := fun _ => rfl
theorem newrx : Statement .newrx := fun _ => rfl
theorem addf (fin : Frame) : Statement (.addf fin) := fun _ => rfl
theorem getp : Statement .getp := fun _ => rfl
theorem fromp (pin : PayloadPort) (len seq : Byte) : Statement (.fromp pin len seq) := fun _ => rfl
theorem popf : Statement .popf := fun _ => rfl
theorem clr : Statement .clr := fun _ => rfl
theorem mcnt : Statement .mcnt := fun _ => rfl
theorem mseq : Statement .mseq := fun _ => rfl
theorem mlen : Statement .mlen := fun _ => rfl

theorem frameFirst (seq : BitVec 3) (len : Byte) (p : Payload6) : Statement (.frameFirst seq len p) :=
  fun _ => isFirst_packFirst seq len p

theorem frameConsec (seq : BitVec 3) (idx : BitVec 5) (p : Payload7) : Statement (.frameConsec seq idx p) := by
  intro h
  show isFirst (packConsec seq idx p) = false
  rw [isFirst_packConsec]
  simpa [Instr.wf] using h

end Sys2Proof.Laws.TableRow
end

