-- ==== Sys2Proof/Tests/Slice0.lean ====
section
/-! SUPPORT. Tests/Slice0.lean: the model's own tests. Expected results are the vectors of spec/95_test_vectors.md (K, T, X, M,
P) or are worked out by hand from the rule named; none is the model's own answer pasted. Then a witness for the
hypotheses of each statement. -/

namespace Sys2Proof.Tests

open Machine Safety

/-! ## Helpers -/

/-- The response of an operation that answers. -/
def answer : Result → Option Response
  | .next t => t.resp
  | _ => none

/-- The state an operation leaves. -/
def after : Result → Option State
  | .next t => some t
  | _ => none

/-- The four frames of S1. -/
def s1f0 : Frame := ⟨0x00, 0x19, 0x12, 0x7C, 0xEA, 0xD5, 0x12, 0x3D⟩
def s1f1 : Frame := ⟨0x01, 0x31, 0xF3, 0xD0, 0xAC, 0xF2, 0x23, 0x1A⟩
def s1f2 : Frame := ⟨0x02, 0x03, 0xFF, 0xFF, 0x00, 0x00, 0x00, 0x00⟩
def s1f3 : Frame := ⟨0x03, 0x20, 0xFF, 0xFF, 0x00, 0x70, 0xFF, 0xFF⟩

/-- A Receive message of S1 with some of its frames stored. -/
def receiving (frames : List Frame) (lfi : BitVec 5) : State :=
  { State.reset with dfc := 4, tdl := 25, store := frames, lfi := lfi }

/-- A Transmit message of S1 with all four frames stored (T7). -/
def sending : State :=
  { State.reset with dir := .tx, dfc := 4, tdl := 25, store := [s1f0, s1f1, s1f2, s1f3] }

/-- A Receive message of one frame, complete (X1). -/
def oneFrame : State :=
  { State.reset with dfc := 1, tdl := 6, sid := 1, store := [⟨0x20, 0x06, 1, 2, 3, 4, 5, 6⟩] }

/-- A store of `CAP` first frames on a message that can never complete (R130). -/
def overfull : State :=
  { State.reset with dfc := 37, tdl := 255, sid := 7, store := List.replicate Config.cap ⟨0xE0, 0xFF, 1, 2, 3, 4, 5, 6⟩ }

def deadState : State := { State.reset with dead := true }

def pay7 : Payload7 := ⟨1, 2, 3, 4, 5, 6, 7⟩

/-! ## WellFormed -/

/-- R72: a FRAME.CONSEC with `iiiii` zero is ill formed; with any other index it is well formed. -/
theorem test_wf_refuses_consec_index_zero : (Instr.frameConsec 3 0 pay7).wf = false := by decide
theorem test_wf_takes_consec_index_31 : (Instr.frameConsec 3 31 pay7).wf = true := by decide

/-! ## Decoding: every constructor, by the word of its row (R80: the 5-bit `op`; R71, R72: the frame's bytes) -/

theorem test_decode_codec_rows :
    decodeTableWord 8 0b00000 = some (.encf ⟨0, 0, 0, 0, 0, 0⟩ 0 0) ∧
    decodeTableWord 8 0b00001 = some (.encc ⟨0, 0, 0, 0, 0, 0, 0⟩ 0 0) ∧
    decodeTableWord 8 0b00010 = some (.dec zeroFrame) ∧
    decodeTableWord 8 0b00011 = some (.fseq zeroFrame) ∧
    decodeTableWord 8 0b00100 = some (.fidx zeroFrame) ∧
    decodeTableWord 8 0b00101 = some (.fisf zeroFrame) ∧
    decodeTableWord 8 0b00110 = some (.flen zeroFrame) ∧
    decodeTableWord 8 0b00111 = some (.fpay zeroFrame) :=
  ⟨rfl, rfl, rfl, rfl, rfl, rfl, rfl, rfl⟩

theorem test_decode_message_rows :
    decodeTableWord 8 0b01000 = some .newrx ∧
    decodeTableWord 8 0b01001 = some (.addf zeroFrame) ∧
    decodeTableWord 8 0b01010 = some .getp ∧
    decodeTableWord 8 0b01011 = some (.fromp zeroPort 0 0) ∧
    decodeTableWord 8 0b01100 = some .popf ∧
    decodeTableWord 8 0b01101 = some .clr ∧
    decodeTableWord 8 0b01110 = some .mcnt ∧
    decodeTableWord 8 0b01111 = some .mseq ∧
    decodeTableWord 8 0b10000 = some .mlen :=
  ⟨rfl, rfl, rfl, rfl, rfl, rfl, rfl, rfl, rfl⟩

/-- R71: `E0 DF ..`: id 7, index 0, length 223. -/
theorem test_decode_wire_first :
    decode (.wire ⟨0xE0, 0xDF, 1, 2, 3, 4, 5, 6⟩) = .ok (.frameFirst 7 223 ⟨1, 2, 3, 4, 5, 6⟩) := rfl

/-- R72: `A5 = 0b101_00101`: id 5, index 5. -/
theorem test_decode_wire_consec :
    decode (.wire ⟨0xA5, 1, 2, 3, 4, 5, 6, 7⟩) = .ok (.frameConsec 5 5 pay7) := rfl

/-- R76, R78: the fields of a record reach the operands their format names: E1, E2, F and P. -/
theorem test_decode_formats :
    decode (.request ⟨0x00, s1f0, portOf [1, 2, 3, 4, 5, 6, 7] 9, 25, 3, 8⟩) = .ok (.encf ⟨1, 2, 3, 4, 5, 6⟩ 25 3) ∧
    decode (.request ⟨0x01, s1f0, portOf [1, 2, 3, 4, 5, 6, 7] 9, 25, 3, 8⟩) = .ok (.encc pay7 3 8) ∧
    decode (.request ⟨0x09, s1f0, zeroPort, 25, 3, 8⟩) = .ok (.addf s1f0) ∧
    decode (.request ⟨0x0B, s1f0, padPort, 25, 3, 8⟩) = .ok (.fromp padPort 25 3) :=
  ⟨rfl, rfl, rfl, rfl⟩

/-- R81: the first and the last reserved code. -/
theorem test_decode_reserved :
    decode (.request (requestN 0x11)) = .error (.reservedOp 0x11) ∧
    decode (.request (requestN 0x1F)) = .error (.reservedOp 0x1F) := ⟨rfl, rfl⟩

/-! ## The Frame Codec -/

/-- K1. -/
theorem test_encf_k1 :
    answer (exec (.encf ⟨0x12, 0x7C, 0xEA, 0xD5, 0x12, 0x3D⟩ 25 0) State.reset) = some (.frame s1f0) := by decide
/-- K5: `9 mod 8 = 1`. -/
theorem test_encf_k5 :
    answer (exec (.encf ⟨0xAA, 0, 0, 0, 0, 0⟩ 1 9) State.reset) = some (.frame ⟨0x20, 0x01, 0xAA, 0, 0, 0, 0, 0⟩) := by decide
/-- K7: the largest accepted values. -/
theorem test_encc_k7 : answer (exec (.encc pay7 7 31) State.reset) = some (.frame ⟨0xFF, 1, 2, 3, 4, 5, 6, 7⟩) := by decide
/-- K8, K9: the smallest rejected values. -/
theorem test_encc_k8_k9 :
    answer (exec (.encc pay7 8 1) State.reset) = some (.error .invalidParameter) ∧
    answer (exec (.encc pay7 0 32) State.reset) = some (.error .invalidParameter) := by decide
/-- K12. -/
theorem test_dec_k12 :
    answer (exec (.dec ⟨0xA5, 0x5A, 0, 0xFF, 0x12, 0x34, 0x56, 0x78⟩) State.reset) =
      some (.frame ⟨0xA5, 0x5A, 0, 0xFF, 0x12, 0x34, 0x56, 0x78⟩) := by decide
/-- R103's example: `0xE5 = 0b111_00101`. -/
theorem test_fseq_e5 : answer (exec (.fseq ⟨0xE5, 0, 0, 0, 0, 0, 0, 0⟩) State.reset) = some (.value 7) := by decide
/-- R104's example. -/
theorem test_fidx_e5 : answer (exec (.fidx ⟨0xE5, 0, 0, 0, 0, 0, 0, 0⟩) State.reset) = some (.value 5) := by decide
/-- K17, K18. -/
theorem test_fisf_k17_k18 :
    answer (exec (.fisf ⟨0xE0, 0, 0xFF, 0xFF, 0xFF, 0xFF, 0xFF, 0xFF⟩) State.reset) = some (.flag true) ∧
    answer (exec (.fisf s1f1) State.reset) = some (.flag false) := by decide
/-- K20, K21. -/
theorem test_flen_k20_k21 :
    answer (exec (.flen ⟨0x00, 0xFF, 0, 0, 0, 0, 0, 0⟩) State.reset) = some (.optValue (some 255)) ∧
    answer (exec (.flen ⟨0x1F, 0x19, 0x12, 0x7C, 0xEA, 0xD5, 0x12, 0x3D⟩) State.reset) = some (.optValue none) := by decide
/-- K22, K23. -/
theorem test_fpay_k22_k23 :
    answer (exec (.fpay s1f0) State.reset) = some (.view [0x12, 0x7C, 0xEA, 0xD5, 0x12, 0x3D]) ∧
    answer (exec (.fpay s1f3) State.reset) = some (.view [0x20, 0xFF, 0xFF, 0x00, 0x70, 0xFF, 0xFF]) := by decide

/-! ## Status codes -/

/-- R79: the numbers of the table, 0x0 and 0x1 to 0x6 and 0xF; a response that is no error has 0x0. -/
theorem test_status_codes :
    statusOf .done = 0x0 ∧ statusOf (.flag false) = 0x0 ∧ statusOf (.optFrame none) = 0x0 ∧
    statusOf (.error .invalidParameter) = 0x1 ∧ statusOf (.error .emptyQueue) = 0x2 ∧
    statusOf (.error .fullQueue) = 0x3 ∧ statusOf (.error .transmissionTypeMismatch) = 0x4 ∧
    statusOf (.error .sequenceCountError) = 0x5 ∧ statusOf (.error .sequenceMismatch) = 0x6 ∧
    statusOf (.error .illegalCommand) = 0xF := by decide

/-! ## The receive path -/

/-- M3: NEWRX discards a Transmit message. -/
theorem test_newrx_m3 : after (exec .newrx sending) = some { State.reset with resp := some .done } := by decide
/-- X6, its last frame: index 3 completes the message of four. -/
theorem test_addf_x6_last :
    after (exec (.addf s1f3) (receiving [s1f0, s1f1, s1f2] 2)) =
      some { receiving [s1f0, s1f1, s1f2, s1f3] 3 with resp := some (.flag true) } := by decide
/-- X13, its second request: a first frame into a store that is not empty is appended, the metadata overwritten. -/
theorem test_addf_x13_second :
    after (exec (.addf ⟨0x40, 0x03, 1, 2, 3, 0xFF, 0xFF, 0xFF⟩) (receiving [s1f0] 0)) =
      some { State.reset with
        dfc := 1, tdl := 3, sid := 2, store := [s1f0, ⟨0x40, 0x03, 1, 2, 3, 0xFF, 0xFF, 0xFF⟩]
        resp := some (.flag true) } := by decide
/-- X4: six bytes, `val = 6`, the store emptied, the metadata kept. -/
theorem test_getp_x4 :
    (after (exec .getp oneFrame)).map (fun t => (t.store, t.dfc, t.tdl, t.sid)) = some ([], 1, 6, 1) ∧
    (answer (exec .getp oneFrame)).map (fun r => (valOf r, (poutOf r).map (List.take 8))) =
      some (some 6, some [1, 2, 3, 4, 5, 6, 0xFF, 0xFF]) := by decide +kernel
/-- X22: a fresh block: `val = 0` and 223 bytes of `0xFF`. -/
theorem test_getp_x22 : answer (exec .getp State.reset) = some (.payload 0 padPort) := rfl

/-! ## The transmit path -/

/-- T4. -/
theorem test_fromp_t4 :
    after (exec (.fromp (portOf [1, 2, 3, 4, 5, 6, 7] 0) 7 7) State.reset) =
      some { State.reset with
        dir := .tx, dfc := 2, tdl := 7, sid := 7
        store := [⟨0xE0, 0x07, 1, 2, 3, 4, 5, 6⟩, ⟨0xE1, 0x07, 0xFF, 0xFF, 0xFF, 0xFF, 0xFF, 0xFF⟩]
        resp := some .done } := by decide +kernel
/-- T12, T13. -/
theorem test_fromp_t12_t13 :
    exec (.fromp zeroPort 224 0) State.reset = .fault .segmentationPanic ∧
    exec (.fromp zeroPort 3 8) State.reset = .fault .segmentationPanic := ⟨rfl, rfl⟩
/-- T14, its first POPF. -/
theorem test_popf_t14 :
    after (exec .popf sending) =
      some { sending with store := [s1f1, s1f2, s1f3], resp := some (.optFrame (some s1f0)) } := by decide
/-- T15: `None`, not EmptyQueue. -/
theorem test_popf_t15 : answer (exec .popf State.reset) = some (.optFrame none) := by decide

/-! ## Management -/

/-- M1 and M2: CLR gives the fresh state, from a Receive and from a Transmit message. -/
theorem test_clr_m1_m2 :
    after (exec .clr (receiving [s1f0, s1f1] 1)) = some { State.reset with resp := some .done } ∧
    after (exec .clr sending) = some { State.reset with resp := some .done } := by decide
/-- T16: MCNT does not follow the stored count. -/
theorem test_mcnt_t16 : answer (exec .mcnt { sending with store := [s1f1, s1f2, s1f3] }) = some (.value 4) := by decide
/-- R163's example: id 5. -/
theorem test_mseq_5 : answer (exec .mseq { State.reset with sid := 5 }) = some (.value 5) := by decide
/-- P2, step 7. -/
theorem test_mlen_p2 : answer (exec .mlen (receiving [s1f0, s1f1, s1f2, s1f3] 3)) = some (.value 25) := by decide

/-! ## Received wire frames: the answers ADDF's vectors give -/

/-- X1. -/
theorem test_frame_first_x1 :
    after (exec (.frameFirst 1 6 ⟨1, 2, 3, 4, 5, 6⟩) State.reset) = some { oneFrame with resp := some (.flag true) } := by decide
/-- X10 and X8: id 1 against 0 is SequenceCountError; index 3 after 1 is SequenceMismatch. -/
theorem test_frame_consec_x10_x8 :
    answer (exec (.frameConsec 1 1 ⟨0x31, 0xF3, 0xD0, 0xAC, 0xF2, 0x23, 0x1A⟩) (receiving [s1f0] 0)) =
      some (.error .sequenceCountError) ∧
    answer (exec (.frameConsec 0 3 ⟨0x20, 0xFF, 0xFF, 0x00, 0x70, 0xFF, 0xFF⟩) (receiving [s1f0, s1f1] 1)) =
      some (.error .sequenceMismatch) := by decide

/-! ## The step -/

/-- M5: a reserved code on a Transmit message with frames: status 0xF, unchanged. -/
theorem test_step_m5 :
    step (enqueue (.request (requestN 0x1F)) sending) = .next { sending with resp := some (.error .illegalCommand) } := rfl
/-- M6: after a fault CLR gets no response. -/
theorem test_step_m6 :
    step (enqueue (.request (requestN 0x0D)) deadState) = .next deadState := rfl
/-- R190: a fault leaves `dead` set and no response. -/
theorem test_step_fault :
    (after (step (enqueue (encode (.fromp zeroPort 224 0)) State.reset))).map (fun t => (t.dead, t.resp)) = some (true, none) := rfl
/-- R210: hardware reset of a dead block. -/
theorem test_step_reset :
    step { deadState with requests := [.hardwareReset] } = .next State.reset := rfl
/-- The first and the last operation of the table, and a wire frame, run as the first instruction after reset. -/
theorem test_first_instruction_runs :
    answer (step (State.reset.withFetchWord 8 0x00)) = some (.frame zeroFrame) ∧
    answer (step (State.reset.withFetchWord 8 0x10)) = some (.value 0) ∧
    answer (step (State.reset.withFetchWord 64 0x0019127CEAD5123D)) = some (.flag false) := by decide +kernel

/-! ## Witnesses: for each statement with hypotheses, a state and operands that meet them all. `State.reset` is live, so it
meets the hypotheses of every statement that asks for a live state and nothing else. -/

theorem witness_live_state : State.reset.dead = false := rfl
theorem witness_dead_state : deadState.dead = true := rfl

theorem witness_DecodeOfEncode : (Instr.frameConsec 7 31 pay7).wf = true ∧ (Instr.fromp zeroPort 255 255).wf = true := by decide
/-- The first and last code of each range; then two requests of each format that agree on what it uses and differ in all
the rest (for format P the port differs from `pin[2]` on). -/
theorem witness_RequestDecodesByOpAlone :
    (0x11 ≤ (requestN 0x11).op.toNat ∧ (requestN 0x10).op.toNat ≤ 0x10) ∧
    agreeOnUsedFields (requestN 0x0A) ⟨0x0A, s1f0, padPort, 1, 2, 3⟩ ∧
    agreeOnUsedFields (requestF 0x09 s1f1) ⟨0x09, s1f1, padPort, 1, 2, 3⟩ ∧
    agreeOnUsedFields (requestE1 0x00 ⟨1, 2, 3, 4, 5, 6⟩ 25 3) ⟨0x00, s1f0, portOf [1, 2, 3, 4, 5, 6] 9, 25, 3, 8⟩ ∧
    agreeOnUsedFields (requestE2 0x01 pay7 3 8) ⟨0x01, s1f0, portOf [1, 2, 3, 4, 5, 6, 7] 9, 25, 3, 8⟩ ∧
    agreeOnUsedFields (requestP 0x0B (portOf [1, 2] 0) 2 3) ⟨0x0B, s1f0, portOf [1, 2] 9, 2, 3, 8⟩ ∧
    agreeOnUsedFields (requestN 0x11) ⟨0x11, s1f0, padPort, 1, 2, 3⟩ :=
  ⟨by decide, ⟨rfl, trivial⟩, ⟨rfl, rfl⟩, ⟨rfl, rfl, rfl, rfl⟩, ⟨rfl, rfl, rfl, rfl⟩, ⟨rfl, rfl, rfl, rfl⟩, ⟨rfl, trivial⟩⟩
theorem witness_StepRunsDecodedInstruction :
    (enqueue (.request (requestN 0x08)) State.reset).requests = .issue (.request (requestN 0x08)) :: [] ∧
    decode (.request (requestN 0x08)) = .ok .newrx ∧ decodeTableWord 8 0x08 = some .newrx := ⟨rfl, rfl, rfl⟩
theorem witness_ResetValues :
    sending.dead = false ∧ (Instr.newrx = .newrx ∨ Instr.newrx = .clr) ∧
    (⟨0x01, 0xAA, 0xAA, 0xAA, 0xAA, 0xAA, 0xAA, 0xAA⟩ : Frame).b0 = 0x01 := ⟨rfl, .inl rfl, rfl⟩
theorem witness_NoAutomaticTransition : State.reset.requests = [] ∧ sending.requests = [] := ⟨rfl, rfl⟩
theorem witness_HardwareResetAloneClearsDead :
    let s : State := { deadState with requests := [.hardwareReset] }
    s.requests = .hardwareReset :: [] ∧ s.dead = true ∧ ∃ t, step s = .next t ∧ t.dead = false := ⟨rfl, rfl, _, rfl, rfl⟩
theorem witness_DeadBlockAcceptsNothing :
    (let s := enqueue (.request (requestN 0x1F)) deadState
     s.dead = true ∧ s.requests = .issue (.request (requestN 0x1F)) :: []) ∧
    ({ deadState with requests := [.hardwareReset] } : State).requests = .hardwareReset :: [] := ⟨⟨rfl, rfl⟩, rfl⟩
theorem witness_FaultsExactlyWhenStated :
    State.reset.dead = false ∧ faults (.fromp zeroPort 224 0) State.reset .segmentationPanic ∧
    faults (.addf ⟨0xE0, 0, 0, 0, 0, 0, 0, 0⟩) overfull .storeOverflow := by
  have := cap_cases
  refine ⟨rfl, .inl (by decide), ⟨rfl, ?_, .inl rfl⟩, List.length_replicate⟩
  simp only [count, overfull, List.length_replicate]; intro h; have h2 : Config.cap = 37 := h.2; omega
theorem witness_DeadSetByFaultsAlone :
    let s := enqueue (encode (.fromp zeroPort 0 8)) State.reset
    s.dead = false ∧ s.requests = .issue (encode (.fromp zeroPort 0 8)) :: [] := ⟨rfl, rfl⟩
theorem witness_EveryRequestAnswered :
    let s := enqueue (encode .popf) State.reset
    s.requests = .issue (encode .popf) :: [] ∧ s.dead = false ∧ ∃ t, step s = .next t ∧ t.dead = false :=
  ⟨rfl, rfl, _, rfl, rfl⟩
theorem witness_ReservedOpAnswersIllegalCommand :
    let s := enqueue (.request (requestN 0x11)) sending
    s.dead = false ∧ s.requests = .issue (.request (requestN 0x11)) :: [] ∧ 0x11 ≤ (requestN 0x11).op.toNat :=
  ⟨rfl, rfl, by decide⟩

theorem witness_EncfPacksFirstFrame : sending.dead = false := rfl
theorem witness_EnccPacksOrRefuses :
    State.reset.dead = false ∧ ((7 : Byte).toNat ≤ 7 ∧ (31 : Byte).toNat ≤ 31) ∧ 7 < (8 : Byte).toNat ∧
    31 < (32 : Byte).toNat := by decide
theorem witness_DecGivesFrameBack : sending.dead = false := rfl
theorem witness_FseqReadsTopThreeBits : sending.dead = false := rfl
theorem witness_FidxReadsLowFiveBits : sending.dead = false := rfl
theorem witness_FisfTestsIndexZero : sending.dead = false := rfl
theorem witness_FlenReadsDeclaredLength : sending.dead = false := rfl
theorem witness_FpayGivesPayloadView :
    sending.dead = false ∧ s1f0.b0.toNat % 32 = 0 ∧ s1f1.b0.toNat % 32 ≠ 0 := by decide
theorem witness_AccessorsReadBackEncoders :
    State.reset.dead = false ∧ (7 : Byte).toNat ≤ 7 ∧ 1 ≤ (1 : Byte).toNat ∧ (1 : Byte).toNat ≤ 31 ∧
    1 ≤ (31 : Byte).toNat ∧ (31 : Byte).toNat ≤ 31 := by decide
theorem witness_CodecAnswersFromRequestAlone :
    isCodec (.encc pay7 8 0) = true ∧ isCodec (.fpay s1f0) = true ∧ State.reset.dead = false := by decide

theorem witness_NewrxGivesEmptyReceiveMessage : sending.dead = false := rfl
theorem witness_AddfRefusesTransmitMessage : sending.dead = false ∧ sending.dir = .tx := by decide
/-- Both clauses, the second on an empty message and on one whose count is above `dfc`. -/
theorem witness_AddfRefusesCompleteMessage :
    (oneFrame.dead = false ∧ oneFrame.dir = .rx ∧ count oneFrame ≠ 0 ∧ count oneFrame = oneFrame.dfc.toNat) ∧
    (count State.reset = 0 ∧ ∃ t, exec (.addf s1f0) State.reset = .next t) ∧
    (let s := { oneFrame with store := [s1f0, s1f1] }
     s.dead = false ∧ s.dir = .rx ∧ count s ≠ s.dfc.toNat ∧ ∃ t, exec (.addf s1f0) s = .next t) :=
  ⟨by decide, ⟨rfl, _, rfl⟩, rfl, rfl, by decide, _, rfl⟩
/-- The first clause; the second at capacity has `overfull`. -/
theorem witness_AddfStoresFirstFrame :
    State.reset.dead = false ∧ State.reset.dir = .rx ∧ ¬(count State.reset ≠ 0 ∧ count State.reset = State.reset.dfc.toNat) ∧
    (⟨0xE0, 0xFF, 1, 2, 3, 4, 5, 6⟩ : Frame).b0.toNat % 32 = 0 ∧ count State.reset ≠ Config.cap := by
  have := cap_ge
  exact ⟨rfl, rfl, by decide, by decide, by simp only [count, reset_store, List.length_nil]; omega⟩
theorem witness_AddfRefusesOtherSequence :
    let s := receiving [s1f0] 0
    let f : Frame := ⟨0x23, 0x31, 0xF3, 0xD0, 0xAC, 0xF2, 0x23, 0x1A⟩
    s.dead = false ∧ s.dir = .rx ∧ ¬(count s ≠ 0 ∧ count s = s.dfc.toNat) ∧ f.b0.toNat % 32 ≠ 0 ∧
    f.b0.toNat / 32 ≠ s.sid.toNat := by decide
/-- The three clauses: a duplicate, the next frame with room, the next frame at capacity. -/
theorem witness_AddfStoresNextFrameInOrder :
    (let s := receiving [s1f0, s1f1] 1
     s.dead = false ∧ s.dir = .rx ∧ ¬(count s ≠ 0 ∧ count s = s.dfc.toNat) ∧ s1f1.b0.toNat % 32 ≠ 0 ∧
     s1f1.b0.toNat / 32 = s.sid.toNat ∧ s1f1.b0.toNat % 32 ≠ s.lfi.toNat + 1 ∧
     s1f2.b0.toNat % 32 = s.lfi.toNat + 1 ∧ count s ≠ Config.cap) ∧
    (let f : Frame := ⟨0xE1, 0, 0, 0, 0, 0, 0, 0⟩
     overfull.dead = false ∧ overfull.dir = .rx ∧ ¬(count overfull ≠ 0 ∧ count overfull = overfull.dfc.toNat) ∧
     f.b0.toNat % 32 ≠ 0 ∧ f.b0.toNat / 32 = overfull.sid.toNat ∧ f.b0.toNat % 32 = overfull.lfi.toNat + 1 ∧
     count overfull = Config.cap) := by
  have := cap_cases
  have hc : count overfull = Config.cap := List.length_replicate
  have h37 : overfull.dfc.toNat = 37 := rfl
  refine ⟨⟨rfl, rfl, by decide, by decide, by decide, by decide, by decide, ?_⟩, rfl, rfl, by omega, by decide, by decide,
    by decide, hc⟩
  simp only [count, receiving, List.length_cons, List.length_nil]; omega
theorem witness_AddfFaultsOnFullStore :
    overfull.dead = false ∧ accepts ⟨0xE0, 0, 0, 0, 0, 0, 0, 0⟩ overfull ∧ count overfull = Config.cap := by
  have := cap_cases
  have hc : count overfull = Config.cap := List.length_replicate
  have h37 : overfull.dfc.toNat = 37 := rfl
  exact ⟨rfl, ⟨rfl, by omega, .inl rfl⟩, hc⟩
theorem witness_GetpFlattensStore : sending.dead = false := rfl

/-- A block fresh from reset is legal (R30). -/
theorem witness_GetpNeverOverrunsPort : Legal State.reset ∧ State.reset.dead = false :=
  ⟨⟨wf_reset, fun _ => ⟨by decide, fun h => (nomatch (h : Dir.rx = Dir.tx)), fun _ => ⟨by decide, .inr ⟨rfl, rfl⟩⟩⟩⟩, rfl⟩
/-- Both cases: a first frame into an empty store, the second frame of S1. -/
theorem witness_ReassemblyKeepsForm :
    (∃ t, exec (.addf s1f0) State.reset = .next t ∧ t.resp = some (.flag false) ∧ isFirst s1f0 = true ∧ count State.reset = 0) ∧
    (∃ t, exec (.addf s1f1) (receiving [s1f0] 0) = .next t ∧ t.resp = some (.flag false) ∧ isFirst s1f1 = false ∧
      Assembling (receiving [s1f0] 0)) := by
  refine ⟨⟨_, rfl, rfl, rfl, rfl⟩, ⟨_, rfl, rfl, rfl, rfl, rfl, by decide, by decide, rfl, rfl, ?_, ?_⟩⟩
  · intro f h; cases h; exact ⟨rfl, rfl⟩
  · intro k f h
    match k, h with
    | 0, h => cases h; exact ⟨rfl, rfl⟩
    | k + 1, h => simp [receiving] at h

/-- The clauses at their edges: a length of 224, an id of 8, the largest length. -/
theorem witness_FrompEntryChecks :
    State.reset.dead = false ∧ 223 < (224 : Byte).toNat ∧ 7 < (8 : Byte).toNat ∧ (223 : Byte).toNat ≤ 223 ∧
    (7 : Byte).toNat ≤ 7 := by decide
/-- T9, on an instance whose capacity is 31: the second test of FROMP does fire. -/
theorem witness_FrompEntryChecks_cap31 (h : Config.cap = 31) : Config.cap < (223 : Byte).toNat / 7 + 1 := by
  rw [h]; decide
theorem witness_FrompBuildsEveryFrame :
    State.reset.dead = false ∧ (216 : Byte).toNat ≤ 223 ∧ (7 : Byte).toNat ≤ 7 ∧ (216 : Byte).toNat / 7 + 1 ≤ Config.cap := by
  have := cap_ge
  exact ⟨rfl, by decide, by decide, this⟩
theorem witness_FrompIgnoresBytesBeyondLength :
    (portOf [1, 2] 0).bytes.take (2 : Byte).toNat = (portOf [1, 2] 9).bytes.take (2 : Byte).toNat ∧ portOf [1, 2] 0 ≠ portOf [1, 2] 9 := by
  decide +kernel
theorem witness_PopfTakesOldestFrame :
    sending.dead = false ∧ sending.store = s1f0 :: [s1f1, s1f2, s1f3] ∧ State.reset.store = [] := ⟨rfl, rfl, rfl⟩
theorem witness_PopfDrainsInOrder : sending.dead = false := rfl
theorem witness_SegmentedViewsArePayload : (0 : Byte).toNat ≤ 223 ∧ (223 : Byte).toNat ≤ 223 := by decide
theorem witness_BothPathsCountFramesAlike :
    ∃ t u v f, exec (.fromp zeroPort 7 7) State.reset = .next t ∧ State.reset.dead = false ∧ t.store[0]? = some f ∧
      exec .newrx t = .next u ∧ exec (.addf f) u = .next v := ⟨_, _, _, _, rfl, rfl, rfl, rfl, rfl⟩
theorem witness_RoundTripReproducesPayload :
    ∃ t u, State.reset.dead = false ∧ exec (.fromp zeroPort 7 7) State.reset = .next t ∧ exec .newrx t = .next u ∧
      0 < count t := ⟨_, _, rfl, rfl, rfl, by decide⟩

theorem witness_ClrGivesInitialMessage :
    sending.dead = false ∧ deadState.dead = true ∧ ∃ t, exec .clr deadState = .next t := ⟨rfl, rfl, _, rfl⟩
theorem witness_ThreeWaysToInitialState :
    let s : State := { sending with requests := [.hardwareReset] }
    s.dead = false ∧ s.requests = .hardwareReset :: [] := ⟨rfl, rfl⟩
theorem witness_McntAnswersDeclaredCount : sending.dead = false := rfl
theorem witness_MseqAnswersSequenceId : sending.dead = false := rfl
theorem witness_MlenAnswersDataLength : sending.dead = false := rfl
theorem witness_WireFirstFrameStored :
    State.reset.dead = false ∧ State.reset.dir = .rx ∧ ¬(count State.reset ≠ 0 ∧ count State.reset = State.reset.dfc.toNat) ∧
    count State.reset ≠ Config.cap := by
  have := cap_ge
  exact ⟨rfl, rfl, by decide, by simp only [count, reset_store, List.length_nil]; omega⟩
theorem witness_WireConsecutiveFrameStored :
    let s := receiving [s1f0, s1f1] 1
    s.dead = false ∧ s.dir = .rx ∧ ¬(count s ≠ 0 ∧ count s = s.dfc.toNat) ∧ count s ≠ Config.cap ∧ (0 : BitVec 3) = s.sid ∧
    (2 : BitVec 5).toNat = s.lfi.toNat + 1 := by
  have := cap_ge
  exact ⟨rfl, rfl, by decide, by simp only [count, receiving, List.length_cons, List.length_nil]; omega, rfl, rfl⟩

theorem witness_ErrorsExactlyWhenStated :
    sending.dead = false ∧ raises (.addf s1f0) sending .transmissionTypeMismatch ∧ raises (.addf s1f0) oneFrame .fullQueue ∧
    raises (.addf ⟨0x21, 0, 0, 0, 0, 0, 0, 0⟩) (receiving [s1f0] 0) .sequenceCountError ∧
    raises (.addf s1f3) (receiving [s1f0] 0) .sequenceMismatch ∧ raises (.encc pay7 8 0) sending .invalidParameter ∧
    (∃ t r, exec (.addf s1f0) sending = .next t ∧ t.resp = some r) ∧
    (∃ t r, exec .mlen sending = .next t ∧ t.resp = some r) := by
  refine ⟨rfl, rfl, ⟨rfl, by decide, rfl⟩, ⟨rfl, by decide, by decide, by decide⟩, ⟨rfl, by decide, by decide, by decide, by decide⟩,
    ⟨rfl, by decide⟩, ⟨_, _, rfl, rfl⟩, ⟨_, _, rfl, rfl⟩⟩
theorem witness_EmptyQueueNeverRaised :
    (∃ t, exec .popf State.reset = .next t) ∧ (∃ t, step (enqueue (encode .getp) State.reset) = .next t) ∧
    State.reset.dead = false ∧ State.reset.store = [] := ⟨⟨_, rfl⟩, ⟨_, rfl⟩, rfl, rfl⟩
theorem witness_ErrorLeavesStateUnchanged :
    ∃ t, exec (.addf s1f0) sending = .next t ∧ t.resp = some (.error .transmissionTypeMismatch) := ⟨_, rfl, rfl⟩
theorem witness_RegistersKeptUnlessWritten :
    (∃ t, exec (.addf s1f1) (receiving [s1f0] 0) = .next t) ∧ replacesMessage (.addf s1f1) = false ∧
    (∀ f, offered (.addf s1f1) = some f → isFirst f = false) ∧ replacesMessage .getp = false ∧ offered .getp = none ∧
    ∃ t, exec .getp sending = .next t := by
  refine ⟨⟨_, rfl⟩, rfl, ?_, rfl, rfl, _, rfl⟩
  intro f h; cases h; rfl
theorem witness_StoreBytesKeptUnlessMoved :
    (∃ t, exec (.addf s1f1) (receiving [s1f0] 0) = .next t) ∧ offered (.addf s1f1) = some s1f1 ∧
    0 < count (receiving [s1f0] 0) ∧ (∃ t, exec .popf sending = .next t) ∧ sending.dead = false ∧
    (∃ t, exec .mcnt sending = .next t) ∧ replacesMessage .mcnt = false ∧ offered .mcnt = none :=
  ⟨⟨_, rfl⟩, rfl, by decide, ⟨_, rfl⟩, rfl, ⟨_, rfl⟩, rfl, rfl⟩
theorem witness_PhasesFollowTransitionTable :
    sending.dead = false ∧ phase sending = .txLoaded ∧ (∃ t, exec .popf sending = .next t) ∧
    (∃ t, exec .clr sending = .next t) ∧ (∃ t, exec .getp sending = .next t) ∧
    (∃ t, exec (.fromp zeroPort 7 7) sending = .next t) ∧
    (∃ t, exec (.addf s1f0) State.reset = .next t ∧ offered (.addf s1f0) = some s1f0 ∧ t.resp = some (.flag false)) ∧
    (∃ t, exec (.addf s1f0) sending = .next t ∧ t.resp = some (.error .transmissionTypeMismatch)) ∧
    (∃ t, exec .popf oneFrame = .next t ∧ count oneFrame = 1 ∧ oneFrame.dir = .rx) ∧
    (∃ t, exec .popf State.reset = .next t ∧ count State.reset = 0) :=
  ⟨rfl, rfl, ⟨_, rfl⟩, ⟨_, rfl⟩, ⟨_, rfl⟩, ⟨_, rfl⟩, ⟨_, rfl, rfl, rfl⟩, ⟨_, rfl, rfl⟩, ⟨_, rfl, rfl, rfl⟩, ⟨_, rfl, rfl⟩⟩
theorem witness_StepKeepsLegal : Legal State.reset ∧ ∃ t, step State.reset = .next t :=
  ⟨witness_GetpNeverOverrunsPort.1, _, rfl⟩

end Sys2Proof.Tests
end

section
/-! SUPPORT. What an instruction can answer, said once for the proofs about the state (spec/10_state.md R40): `Effect` lists
the next states, `exec_fault_iff` the faults. Then the proofs of the statements of 10_state.md. -/

namespace Sys2Proof.Proofs

open Machine Safety

/-! ## Offering a frame -/

theorem addFrame_first {f : Frame} {s : State} (hdir : s.dir = .rx) (hfull : messageFull s = false)
    (hf : isFirst f = true) : addFrame f s = addFirst f s := by
  simp [addFrame, hdir, hfull, hf]

theorem addFrame_consec_inOrder {f : Frame} {s : State} (hdir : s.dir = .rx) (hfull : messageFull s = false)
    (hf : isFirst f = false) (hs : seqOf f = s.sid) (ho : inOrder f s = true) :
    addFrame f s = storeFrame f (consecCompletes f s) { s with lfi := idxOf f } := by
  simp [addFrame, addConsec, hdir, hfull, hf, hs, ho]

/-- A frame that passes the four tests goes on to the store, in a state of the same count. -/
theorem addFrame_of_accepts {f : Frame} {s : State} (h : accepts f s) :
    ∃ b s', count s' = count s ∧ addFrame f s = storeFrame f b s' := by
  obtain ⟨hdir, hfull, hkind⟩ := h
  rw [← messageFull_iff, Bool.not_eq_true] at hfull
  cases hf : isFirst f with
  | true =>
    refine ⟨_, _, ?_, addFrame_first hdir hfull hf⟩
    rfl
  | false =>
    have hidx : idxOf f ≠ 0 := by simpa [isFirst] using hf
    obtain ⟨hs, ho⟩ := hkind.resolve_left hidx
    refine ⟨_, _, ?_, addFrame_consec_inOrder hdir hfull hf hs ((inOrder_iff f s).mpr ho)⟩
    rfl

/-- A frame that fails one of the four tests is answered with an error. -/
theorem addFrame_of_not_accepts {f : Frame} {s : State} (h : ¬ accepts f s) : ∃ e, addFrame f s = raise e s := by
  unfold addFrame
  split
  · exact ⟨_, rfl⟩
  rename_i hdir
  split
  · exact ⟨_, rfl⟩
  rename_i hfull
  have hrx : s.dir = .rx := by cases hd : s.dir <;> simp_all
  have hkind : ¬ (idxOf f = 0 ∨ (seqOf f = s.sid ∧ (idxOf f).toNat = s.lfi.toNat + 1)) :=
    fun hk => h ⟨hrx, by rwa [← messageFull_iff], hk⟩
  rw [← isFirst_iff, ← inOrder_iff] at hkind
  rw [if_neg fun hf => hkind (.inl hf), addConsec]
  split
  · exact ⟨_, rfl⟩
  rename_i hs
  rw [if_neg fun ho => hkind (.inr ⟨by simpa using hs, ho⟩)]
  exact ⟨_, rfl⟩

theorem storeFrame_fault_iff {f : Frame} {b : Bool} {s : State} {r : Fault} :
    storeFrame f b s = .fault r ↔ r = .storeOverflow ∧ count s = Config.cap := by
  by_cases hc : count s = Config.cap
  · simp [storeFrame_full hc, hc, eq_comm]
  · simp [storeFrame_room hc, hc, respond]

theorem addFrame_fault_iff {f : Frame} {s : State} {r : Fault} :
    addFrame f s = .fault r ↔ r = .storeOverflow ∧ accepts f s ∧ count s = Config.cap := by
  by_cases ha : accepts f s
  · obtain ⟨b, s', hcount, heq⟩ := addFrame_of_accepts ha
    rw [heq, storeFrame_fault_iff, hcount]
    simp [ha]
  · obtain ⟨e, heq⟩ := addFrame_of_not_accepts ha
    simp [heq, raise, respond, ha]

theorem addFrame_ne_refused (f : Frame) (s : State) (r : Refusal) : addFrame f s ≠ .refused r := by
  by_cases ha : accepts f s
  · obtain ⟨b, s', -, heq⟩ := addFrame_of_accepts ha
    rw [heq, storeFrame]
    split <;> nofun
  · obtain ⟨e, heq⟩ := addFrame_of_not_accepts ha
    rw [heq]
    nofun

/-! ## The outcomes of an instruction -/

theorem exec_offered {i : Instr} {f : Frame} (h : offered i = some f) (s : State) :
    exec i s = whenLive s (addFrame f s) := by
  cases i <;> cases h <;> rfl

/-- The instructions that answer without touching the Message: the codec, and the three accessors (R40). -/
def LeavesMessage (i : Instr) : Prop :=
  replacesMessage i = false ∧ offered i = none ∧ i ≠ .popf ∧ i ≠ .getp

/-- The instructions by what they do with the Message: leave it, take an offered frame, take from the store, replace it. -/
theorem instr_kinds (i : Instr) :
    LeavesMessage i ∨ (∃ f, offered i = some f) ∨ i = .popf ∨ i = .getp ∨ i = .newrx ∨ i = .clr ∨
      ∃ pin len seq, i = .fromp pin len seq := by
  cases i <;> simp [LeavesMessage, replacesMessage, offered]

theorem exec_leavesMessage {i : Instr} (h : LeavesMessage i) {s : State} (hd : s.dead = false) :
    ∃ r, exec i s = respond r s := by
  obtain ⟨hrep, hoff, hpop, hget⟩ := h
  cases i with
  | newrx | clr | fromp => cases hrep
  | addf | frameFirst | frameConsec => cases hoff
  | popf => exact absurd rfl hpop
  | getp => exact absurd rfl hget
  | encc p seq idx =>
    rw [show exec (.encc p seq idx) s = _ from whenLive_live hd _]
    split <;> exact ⟨_, rfl⟩
  | encf | dec | fseq | fidx | fisf | flen | fpay | mcnt | mseq | mlen => exact ⟨_, whenLive_live hd _⟩

theorem exec_popf {s : State} (hd : s.dead = false) :
    exec .popf s = respond (.optFrame s.store.head?) { s with store := s.store.drop 1 } := by
  rw [show exec .popf s = _ from whenLive_live hd _]
  split <;> rename_i hs
  · simp [hs, respond]
  · simp [hs]

theorem exec_getp {s : State} (hd : s.dead = false) :
    exec .getp s = respond (.payload s.tdl (flattenStore s.store)) { s with store := [] } :=
  whenLive_live hd _

theorem exec_newrx {s : State} (hd : s.dead = false) : exec .newrx s = respond .done (initMessage s) :=
  whenLive_live hd _

theorem exec_clr {s : State} (hd : s.dead = false) : exec .clr s = respond .done (initMessage s) :=
  whenLive_live hd _

theorem exec_fromp (pin : PayloadPort) (len seq : Byte) {s : State} (hd : s.dead = false) :
    exec (.fromp pin len seq) s =
      if badPrecondition len seq then .fault .segmentationPanic
      else if overCapacity (framesFor len.toNat) then .fault .storeOverflow
      else respond .done (loadMessage pin len seq s) :=
  whenLive_live hd _

theorem exec_dead (i : Instr) {s : State} (hd : s.dead = true) : exec i s = .next (silent s) := by
  cases i <;> exact whenLive_dead hd _

/-- Everything an instruction that gives a next state can have done: one case per row of the table of R40, `added` the
offered frame's own cases (`addFrame_next`), `silent` the dead block (R191). -/
inductive Effect (s : State) : Instr → State → Prop where
  | silent (i : Instr) (hd : s.dead = true) : Effect s i (silent s)
  | answered (i : Instr) (r : Response) (hd : s.dead = false) (hi : LeavesMessage i) :
    Effect s i { s with resp := some r }
  | added (i : Instr) (f : Frame) (t : State) (hd : s.dead = false) (hi : offered i = some f)
    (h : addFrame f s = .next t) : Effect s i t
  | popped (hd : s.dead = false) :
    Effect s .popf { s with store := s.store.drop 1, resp := some (.optFrame s.store.head?) }
  | flattened (hd : s.dead = false) :
    Effect s .getp { s with store := [], resp := some (.payload s.tdl (flattenStore s.store)) }
  | cleared (i : Instr) (hd : s.dead = false) (hi : i = .newrx ∨ i = .clr) :
    Effect s i { initMessage s with resp := some .done }
  | loaded (pin : PayloadPort) (len seq : Byte) (hd : s.dead = false) (hlen : len.toNat ≤ 223)
    (hseq : seq.toNat ≤ 7) (hcap : framesFor len.toNat ≤ Config.cap) :
    Effect s (.fromp pin len seq) { loadMessage pin len seq s with resp := some .done }

theorem exec_effect {i : Instr} {s t : State} (h : exec i s = .next t) : Effect s i t := by
  cases hd : s.dead with
  | true =>
    rw [exec_dead i hd] at h
    cases h
    exact .silent i hd
  | false =>
    obtain hi | ⟨f, hi⟩ | rfl | rfl | rfl | rfl | ⟨pin, len, seq, rfl⟩ := instr_kinds i
    · obtain ⟨r, hr⟩ := exec_leavesMessage hi hd
      obtain rfl := respond_next (hr.symm.trans h)
      exact .answered i r hd hi
    · rw [exec_offered hi, whenLive_live hd] at h
      exact .added i f t hd hi h
    · obtain rfl := respond_next ((exec_popf hd).symm.trans h)
      exact .popped hd
    · obtain rfl := respond_next ((exec_getp hd).symm.trans h)
      exact .flattened hd
    · obtain rfl := respond_next ((exec_newrx hd).symm.trans h)
      exact .cleared _ hd (.inl rfl)
    · obtain rfl := respond_next ((exec_clr hd).symm.trans h)
      exact .cleared _ hd (.inr rfl)
    · rw [exec_fromp pin len seq hd] at h
      split at h
      · cases h
      rename_i hpre
      split at h
      · cases h
      rename_i hcap
      obtain rfl := respond_next h
      rw [badPrecondition_iff] at hpre
      rw [overCapacity_iff] at hcap
      exact .loaded pin len seq hd (by omega) (by omega) (by omega)

/-! ## Faults -/

theorem faults_offered {i : Instr} {f : Frame} (h : offered i = some f) {s : State} {r : Fault} :
    faults i s r ↔ r = .storeOverflow ∧ accepts f s ∧ count s = Config.cap := by
  cases i <;> cases h <;> cases r <;> simp [faults]

theorem not_faults_of_leavesMessage {i : Instr} (h : LeavesMessage i) {s : State} {r : Fault} : ¬ faults i s r := by
  obtain ⟨hrep, hoff, -, -⟩ := h
  cases i with
  | fromp => cases hrep
  | addf | frameFirst | frameConsec => cases hoff
  | _ => exact id

theorem exec_fromp_fault_iff {pin : PayloadPort} {len seq : Byte} {s : State} {r : Fault} (hd : s.dead = false) :
    exec (.fromp pin len seq) s = .fault r ↔ faults (.fromp pin len seq) s r := by
  rw [exec_fromp pin len seq hd]
  simp only [badPrecondition_iff, overCapacity_iff]
  split
  · cases r <;> simp [faults] <;> omega
  split
  · cases r <;> simp [faults] <;> omega
  · cases r <;> simp [faults, respond] <;> omega

/-- Offered frames and FROMP apart, a live block answers, and no fault is stated. -/
theorem exec_live_cases (i : Instr) {s : State} (hd : s.dead = false) :
    (∃ f, offered i = some f) ∨ (∃ pin len seq, i = .fromp pin len seq) ∨
      ((∃ a s', exec i s = respond a s') ∧ ∀ r, ¬ faults i s r) := by
  obtain hi | hi | rfl | rfl | rfl | rfl | hi := instr_kinds i
  · obtain ⟨a, ha⟩ := exec_leavesMessage hi hd
    exact .inr (.inr ⟨⟨a, s, ha⟩, fun _ => not_faults_of_leavesMessage hi⟩)
  · exact .inl hi
  · exact .inr (.inr ⟨⟨_, _, exec_popf hd⟩, fun _ => id⟩)
  · exact .inr (.inr ⟨⟨_, _, exec_getp hd⟩, fun _ => id⟩)
  · exact .inr (.inr ⟨⟨_, _, exec_newrx hd⟩, fun _ => id⟩)
  · exact .inr (.inr ⟨⟨_, _, exec_clr hd⟩, fun _ => id⟩)
  · exact .inr (.inl hi)

/-- R192, R193: the faults of a live block are exactly those of the table. -/
theorem exec_fault_iff {i : Instr} {s : State} {r : Fault} (hd : s.dead = false) :
    exec i s = .fault r ↔ faults i s r := by
  obtain ⟨f, hi⟩ | ⟨pin, len, seq, rfl⟩ | ⟨⟨a, s', ha⟩, hno⟩ := exec_live_cases i hd
  · rw [exec_offered hi, whenLive_live hd, addFrame_fault_iff, faults_offered hi]
  · exact exec_fromp_fault_iff hd
  · simp [ha, respond, hno]

theorem exec_ne_refused (i : Instr) (s : State) (r : Refusal) : exec i s ≠ .refused r := by
  cases hd : s.dead with
  | true => simp [exec_dead i hd]
  | false =>
    obtain ⟨f, hi⟩ | ⟨pin, len, seq, rfl⟩ | ⟨⟨a, s', ha⟩, -⟩ := exec_live_cases i hd
    · rw [exec_offered hi, whenLive_live hd]
      exact addFrame_ne_refused f s r
    · rw [exec_fromp pin len seq hd]
      split_ifs <;> nofun
    · simp [ha, respond]

/-! ## What a step makes of it -/

theorem illegalCommand_next {s t : State} (h : illegalCommand s = .next t) : ∃ r, t = { s with resp := r } := by
  obtain ⟨-, rfl⟩ | ⟨-, h⟩ := whenLive_next h
  · exact ⟨_, rfl⟩
  · exact ⟨_, respond_next h⟩

theorem settle_next {s t : State} {k : Result} (h : settle s k = .next t) : k = .next t ∨ t = takeFault s := by
  cases k <;> cases h
  · exact .inl rfl
  · exact .inr rfl

/-! ## Legal states -/

/-- An empty Receive message with no metadata is legal: what reset, NEWRX and CLR leave (R39). -/
theorem legal_of_empty {s : State} (hdir : s.dir = .rx) (hdfc : s.dfc = 0) (htdl : s.tdl = 0) (hstore : s.store = []) :
    Legal s := by
  refine ⟨by simp [Memory.wf, hstore], fun _ => ⟨by simp [hdfc], fun h => ?_, fun _ => ⟨?_, .inr ⟨hdfc, htdl⟩⟩⟩⟩
  · cases hdir.symm.trans h
  · simp [hstore, tailRun]

theorem legal_takeFault (s : State) : Legal (takeFault s) :=
  ⟨wf_takeFault s, fun h => by cases h⟩

/-- `tailRun` as it goes on from a run of `n` frames. -/
def runFrom (n : Nat) (l : List Frame) : Nat := l.foldl (fun n f => if isFirst f then 0 else n + 1) n

theorem tailRun_append (l l' : List Frame) : tailRun (l ++ l') = runFrom (tailRun l) l' := List.foldl_append

theorem tailRun_push (l : List Frame) (f : Frame) :
    tailRun (l ++ [f]) = if isFirst f then 0 else tailRun l + 1 := tailRun_append l [f]

theorem runFrom_mono (l : List Frame) {m n : Nat} (h : m ≤ n) : runFrom m l ≤ runFrom n l := by
  induction l generalizing m n with
  | nil => exact h
  | cons f l ih =>
    refine ih ?_
    dsimp only
    split <;> omega

theorem tailRun_drop_le (l : List Frame) (k : Nat) : tailRun (l.drop k) ≤ tailRun l :=
  calc tailRun (l.drop k) ≤ runFrom (tailRun (l.take k)) (l.drop k) := runFrom_mono _ (Nat.zero_le _)
    _ = tailRun l := by rw [← tailRun_append, List.take_append_drop]

/-- A Transmit store is a tail of what FROMP built: `count` and the length of the tail say the same (R30). -/
theorem transmitForm_iff (s : State) :
    TransmitForm s ↔ ∃ pin : PayloadPort, s.tdl.toNat ≤ Config.maxLen ∧ s.dfc.toNat = framesFor s.tdl.toNat ∧
      s.lfi = 0 ∧ s.store <:+ segmentFrames pin s.tdl s.sid := by
  refine exists_congr fun pin => and_congr_right fun _ => and_congr_right fun hdfc => and_congr_right fun _ => ?_
  rw [hdfc, ← segmentFrames_length pin s.tdl s.sid, count, List.suffix_iff_eq_drop]
  refine ⟨And.right, fun h => ⟨?_, h⟩⟩
  exact (List.suffix_iff_eq_drop.mpr h).length_le

/-- Taking frames from the front keeps a state legal: POPF takes one, GETP all. -/
theorem legal_drop {s : State} (h : Legal s) (k : Nat) (r : Option Response) :
    Legal { s with store := s.store.drop k, resp := r } := by
  obtain ⟨hwf, hlive⟩ := h
  refine ⟨(List.drop_suffix ..).length_le.trans hwf, fun hd => ?_⟩
  obtain ⟨hdfc, htx, hrx⟩ := hlive hd
  refine ⟨hdfc, fun hdir => ?_, fun hdir => ?_⟩
  · obtain ⟨pin, hlen, hframes, hlfi, hstore⟩ := (transmitForm_iff s).mp (htx hdir)
    exact (transmitForm_iff _).mpr ⟨pin, hlen, hframes, hlfi, (List.drop_suffix ..).trans hstore⟩
  · obtain ⟨hrun, hmeta⟩ := hrx hdir
    exact ⟨(tailRun_drop_le _ k).trans hrun, hmeta⟩

theorem legal_loadMessage {pin : PayloadPort} {len seq : Byte} (s : State) (hlen : len.toNat ≤ 223)
    (hcap : framesFor len.toNat ≤ Config.cap) : Legal (loadMessage pin len seq s) := by
  refine ⟨by simpa [Memory.wf] using hcap, fun _ => ⟨?_, fun _ => ?_, fun h => by cases h⟩⟩
  · rw [loadMessage_dfc, framesFor_byte_toNat]
    exact framesFor_le (by omega)
  · exact (transmitForm_iff _).mpr ⟨pin, hlen, framesFor_byte_toNat len, rfl, List.suffix_rfl⟩

theorem legal_addFrame {f : Frame} {s t : State} (hd : s.dead = false) (hs : Legal s) (h : addFrame f s = .next t) :
    Legal t := by
  obtain ⟨hwf, hlive⟩ := hs
  obtain ⟨hdfc, -, hrx⟩ := hlive hd
  obtain ⟨e, rfl⟩ | ⟨hdir, -, hf, hc, rfl⟩ | ⟨hdir, -, hf, -, hidx, hc, rfl⟩ := addFrame_next h
  · exact ⟨hwf, hlive⟩
  · refine ⟨wf_pushBack (f := f) hwf hc, fun _ => ⟨?_, fun h => ?_, fun _ => ⟨?_, .inl (framesFor_byte_toNat f.b1)⟩⟩⟩
    · exact (framesFor_byte_toNat f.b1).trans_le (framesFor_le (by have := f.b1.isLt; omega))
    · cases hdir.symm.trans h
    · simp [tailRun_push, hf]
  · obtain ⟨hrun, hmeta⟩ := hrx hdir
    refine ⟨wf_pushBack (f := f) hwf hc, fun _ => ⟨hdfc, fun h => ?_, fun _ => ⟨?_, hmeta⟩⟩⟩
    · cases hdir.symm.trans h
    · simp only [tailRun_push, hf, Bool.false_eq_true, if_false]
      omega

theorem legal_effect {i : Instr} {s t : State} (hs : Legal s) (h : Effect s i t) : Legal t := by
  cases h with
  | silent | answered => exact hs
  | added _ f _ hd _ h => exact legal_addFrame hd hs h
  | popped => exact legal_drop hs 1 _
  | flattened =>
    have := legal_drop hs s.store.length (some (.payload s.tdl (flattenStore s.store)))
    rwa [List.drop_length] at this
  | cleared => exact legal_of_empty rfl rfl rfl rfl
  | loaded pin len seq _ hlen _ hcap => exact legal_loadMessage s hlen hcap

theorem legal_serve {w : Raw} {s t : State} (hs : Legal s) (h : serve w s = .next t) : Legal t := by
  unfold serve at h
  split at h
  · exact legal_effect hs (exec_effect h)
  · obtain ⟨r, rfl⟩ := illegalCommand_next h
    exact hs

/-- Settles O55: reset leaves an empty Receive message. -/
theorem resetIsLegal : Obligations.ResetIsLegal :=
  legal_of_empty rfl rfl rfl rfl

/-- Settles O56: the three kinds of step, the last by what the instruction did (`Effect`) or by the fault it raised. -/
theorem stepKeepsLegal : Obligations.StepKeepsLegal := by
  intro s t hs ht
  obtain ⟨-, h⟩ | ⟨rest, -, h⟩ | ⟨w, rest, -, h⟩ := step_cases s <;> rw [h] at ht
  · cases ht
    exact hs
  · cases ht
    exact legal_of_empty rfl rfl rfl rfl
  · obtain h | rfl := settle_next ht
    · exact legal_serve (s := { s with requests := rest }) hs h
    · exact legal_takeFault _

/-! ## Frames: registers and store -/

theorem addFrame_registers {f : Frame} {s t : State} (h : addFrame f s = .next t) :
    t.dead = s.dead ∧ t.requests = s.requests ∧ t.freeCtr = s.freeCtr ∧ t.dir = s.dir ∧
      (isFirst f = false → t.dfc = s.dfc ∧ t.tdl = s.tdl ∧ t.sid = s.sid) := by
  obtain ⟨e, rfl⟩ | ⟨-, -, hf, -, rfl⟩ | ⟨-, -, -, -, -, -, rfl⟩ := addFrame_next h
  · simp
  · simp [hf]
  · simp

/-- Settles O52: by what the instruction did (`Effect`); only an offered frame writes some registers and not others. -/
theorem registersKeptUnlessWritten : Obligations.RegistersKeptUnlessWritten := by
  intro i s t h
  cases exec_effect h with
  | silent | answered | popped | flattened => simp
  | added _ f _ _ hi h =>
    obtain ⟨hdead, hreq, hctr, hdir, hmeta⟩ := addFrame_registers h
    exact ⟨hdead, hreq, hctr, fun _ => hdir, fun _ hfirst => hmeta (hfirst f hi), fun _ hno => by simp [hi] at hno⟩
  | cleared _ _ hi => obtain rfl | rfl := hi <;> simp [replacesMessage]
  | loaded => simp [replacesMessage]

/-- An offered frame leaves the store as it was, or stands behind it. -/
theorem addFrame_store {f : Frame} {s t : State} (h : addFrame f s = .next t) :
    t.store = s.store ∨ t.store = s.store ++ [f] := by
  obtain ⟨e, rfl⟩ | ⟨-, -, -, -, rfl⟩ | ⟨-, -, -, -, -, -, rfl⟩ := addFrame_next h
  · exact .inl rfl
  · exact .inr rfl
  · exact .inr rfl

theorem storeByte_of_store {s t : State} (h : t.store = s.store) (k j : Nat) : storeByte t k j = storeByte s k j := by
  simp [storeByte, h]

theorem exec_leavesMessage_store {i : Instr} {s t : State} (hi : LeavesMessage i) (h : exec i s = .next t) :
    t.store = s.store := by
  cases hd : s.dead with
  | true =>
    rw [exec_dead i hd] at h
    cases h
    rfl
  | false =>
    obtain ⟨r, hr⟩ := exec_leavesMessage hi hd
    rw [respond_next (hr.symm.trans h)]

/-- Settles O53: a push leaves the places before it, a pop moves every place by one, other instructions leave the store. -/
theorem storeBytesKeptUnlessMoved : Obligations.StoreBytesKeptUnlessMoved := by
  intro i s t h
  refine ⟨fun f hi k j hk => ?_, fun hi hd k j => ?_, fun hrep hoff hpop hget k j => ?_⟩
  · rw [exec_offered hi] at h
    obtain ⟨-, rfl⟩ | ⟨-, h⟩ := whenLive_next h
    · rfl
    obtain hsame | hpush := addFrame_store h
    · exact storeByte_of_store hsame k j
    · exact (storeByte_of_store (s := pushBack f s) hpush k j).trans (storeByte_pushBack f hk j)
  · subst hi
    obtain rfl := respond_next ((exec_popf hd).symm.trans h)
    simp [storeByte]
  · exact storeByte_of_store (exec_leavesMessage_store ⟨hrep, hoff, hpop, hget⟩ h) k j

/-! ## Reset and reassembly -/

/-- Settles O7: the orphan frame (id 0, index 1) passes the id and order tests because `sid` and `lfi` are zero. -/
theorem resetValues : Obligations.ResetValues := by
  refine ⟨⟨rfl, rfl, rfl, rfl, rfl, rfl, rfl, rfl⟩, fun s hd i hi => ?_, fun f hf => ?_⟩
  · have hinit : exec i s = respond .done (initMessage s) := by
      obtain rfl | rfl := hi
      exacts [exec_newrx hd, exec_clr hd]
    simp [hinit, respond, initMessage, State.reset, hd]
  · have hidx : idxOf f = 1 := by simp [idxOf, hf]
    have hseq : seqOf f = 0 := by simp [seqOf, hf]
    have hadd := addFrame_consec_inOrder (s := State.reset) rfl rfl (by simp [isFirst, hidx]) hseq
      (by simp [inOrder, hidx])
    have hroom : count { State.reset with lfi := idxOf f } ≠ Config.cap := by
      rw [show count { State.reset with lfi := idxOf f } = 0 from rfl]
      have := cap_ge
      omega
    rw [exec_offered rfl, whenLive_live rfl, hadd, storeFrame_room hroom]
    exact ⟨_, rfl, by simp [consecCompletes], rfl⟩

/-- A first frame alone in the store is a reassembly of one frame. -/
theorem assembling_first {f : Frame} {s : State} (hdir : s.dir = .rx) (hd : s.dead = false) (hf : isFirst f = true)
    (r : Option Response) :
    Assembling { s with
      dfc := BitVec.ofNat 6 (framesFor f.b1.toNat), sid := seqOf f, tdl := f.b1, lfi := 0, store := [f], resp := r } := by
  have hdfc := framesFor_byte_toNat f.b1
  have hpos := framesFor_pos f.b1.toNat
  refine ⟨hdir, hd, Nat.one_ne_zero, hpos.trans_eq hdfc.symm, rfl, hdfc, fun g hg => ?_, fun k g hg => ?_⟩
  · cases hg
    exact ⟨hf, rfl⟩
  · obtain ⟨rfl, rfl⟩ : k = 0 ∧ f = g := by simpa [List.getElem?_singleton] using hg
    exact ⟨by simp [(isFirst_iff f).mp hf], rfl⟩

/-- In a reassembly the frame in order is the one whose index is `count`: it takes the next place. -/
theorem assembling_consec {f : Frame} {s : State} (hs : Assembling s) (hfull : messageFull s = false)
    (hseq : seqOf f = s.sid) (hidx : (idxOf f).toNat = s.lfi.toNat + 1) (r : Option Response) :
    Assembling { s with lfi := idxOf f, store := s.store ++ [f], resp := r } ∧ (idxOf f).toNat = count s := by
  obtain ⟨hdir, hd, hne, hle, hlfi, hdfc, hzero, hall⟩ := hs
  have hplace : (idxOf f).toNat = count s := by omega
  have hlt : count s < s.dfc.toNat := by
    rw [← Bool.not_eq_true, messageFull_iff] at hfull
    omega
  have hcount : count { s with lfi := idxOf f, store := s.store ++ [f], resp := r } = count s + 1 := by simp [count]
  have hlast : (idxOf f).toNat = count { s with lfi := idxOf f, store := s.store ++ [f], resp := r } - 1 := by omega
  refine ⟨⟨hdir, hd, by omega, hcount.trans_le hlt, hlast, hdfc, fun g hg => ?_, fun k g hg => ?_⟩, hplace⟩
  · rw [List.getElem?_append_left (Nat.pos_of_ne_zero hne)] at hg
    exact hzero g hg
  · obtain hk | hk := Nat.lt_or_ge k s.store.length
    · rw [List.getElem?_append_left hk] at hg
      exact hall k g hg
    · rw [List.getElem?_append_right hk] at hg
      obtain ⟨hend, rfl⟩ : k - s.store.length = 0 ∧ f = g := by simpa [List.getElem?_singleton] using hg
      exact ⟨hplace.trans (by simp only [count]; omega), hseq⟩

/-- Settles O33: the two kinds of frame stored, each with what it makes of the form. -/
theorem reassemblyKeepsForm : Obligations.ReassemblyKeepsForm := by
  intro f s t b h hresp huse
  rw [exec_offered rfl] at h
  obtain ⟨-, rfl⟩ | ⟨hd, h⟩ := whenLive_next h
  · cases hresp
  obtain ⟨e, rfl⟩ | ⟨hdir, -, hf, -, rfl⟩ | ⟨-, hfull, hf, hseq, hidx, -, rfl⟩ := addFrame_next h
  · cases hresp
  · obtain ⟨-, hempty⟩ | ⟨hf', -⟩ := huse
    · cases hresp
      rw [List.eq_nil_of_length_eq_zero hempty]
      refine ⟨assembling_first hdir hd hf _, ?_⟩
      simp only [firstCompletes, beq_iff_eq, framesFor_byte_toNat]
      exact eq_comm
    · cases hf.symm.trans hf'
  · obtain ⟨hf', -⟩ | ⟨-, hs⟩ := huse
    · cases hf.symm.trans hf'
    · cases hresp
      obtain ⟨hform, hplace⟩ := assembling_consec hs hfull hseq hidx (some (.flag (consecCompletes f s)))
      exact ⟨hform, by simp [consecCompletes, hplace, count]⟩

/-! ## Faults and the latch -/

theorem step_issue {s : State} {w : Raw} {rest : List HostAct} (h : s.requests = .issue w :: rest) :
    step s = settle { s with requests := rest } (serve w { s with requests := rest }) := by
  simp [step, nextAct_cons h]

theorem faults_requests {i : Instr} {s : State} {r : Fault} {q : List HostAct} :
    faults i { s with requests := q } r ↔ faults i s r := Iff.rfl

/-- Settles O11: an instruction that answers keeps the latch, one that faults is taken, and none is refused. -/
theorem deadSetByFaultsAlone : Obligations.DeadSetByFaultsAlone := by
  intro s w rest hd hq
  rw [step_issue hq, serve]
  have hd' : { s with requests := rest }.dead = false := hd
  cases hw : decode w with
  | error e =>
    exact ⟨_, congrArg (settle _) (whenLive_live hd' _), rfl, by simp [hd], by simp [hd]⟩
  | ok i =>
    simp only [Except.ok.injEq, exists_and_left, exists_eq_left']
    cases hx : exec i { s with requests := rest } with
    | next t =>
      obtain ⟨hdead, hreq, -⟩ := registersKeptUnlessWritten i _ t hx
      have hlive : t.dead = false := hdead.trans hd
      refine ⟨t, rfl, hreq, ?_, by simp [hlive]⟩
      simp only [hlive, Bool.false_eq_true, false_iff, not_exists]
      intro r hr
      cases hx.symm.trans ((exec_fault_iff hd').mpr (faults_requests.mpr hr))
    | fault r =>
      have hr : faults i s r := faults_requests.mp ((exec_fault_iff hd').mp hx)
      exact ⟨_, rfl, rfl, ⟨fun _ => ⟨r, hr⟩, fun _ => rfl⟩, fun _ => rfl⟩
    | refused r => exact absurd hx (exec_ne_refused i _ r)

end Sys2Proof.Proofs
end

section
/-! SUPPORT. The operation port (spec/20_memory.md): which bytes of `pin` FROMP reads (R57), and what a step makes of the
word it takes (R55, R62). Then the proofs of the statements of 20_memory.md. -/

namespace Sys2Proof.Proofs

open Machine

/-! ## The payload port -/

/-- The only way FROMP reads the port: the byte below `len` is one of the first `len` bytes, any other is the fill. -/
theorem payloadAt_eq_take_getD (pin : PayloadPort) (len p : Nat) :
    payloadAt pin len p = (pin.bytes.take len).getD p Config.pad := by
  unfold payloadAt
  split <;> rename_i h
  · simp [portByte, List.getElem?_take_of_lt h]
  · simp [List.getElem?_take_eq_none (Nat.le_of_not_lt h)]

theorem payloadAt_congr {pin pin' : PayloadPort} {len : Nat} (h : pin.bytes.take len = pin'.bytes.take len) (p : Nat) :
    payloadAt pin len p = payloadAt pin' len p := by
  rw [payloadAt_eq_take_getD, payloadAt_eq_take_getD, h]

/-- Every byte FROMP puts in a frame is a `payloadAt`, so the frames are those of any port with the same payload. -/
theorem segmentFrames_congr {pin pin' : PayloadPort} {len : Byte}
    (h : pin.bytes.take len.toNat = pin'.bytes.take len.toNat) (seq : BitVec 3) :
    segmentFrames pin len seq = segmentFrames pin' len seq := by
  simp only [segmentFrames, segmentFirst, segmentConsec, payloadAt_congr h]

/-- Settles O36: FROMP's two tests do not read the port, and the Message it loads holds of the port the frames alone. -/
theorem frompIgnoresBytesBeyondLength : Obligations.FrompIgnoresBytesBeyondLength := by
  intro pin pin' len seq s h
  have hload : loadMessage pin len seq s = loadMessage pin' len seq s := by
    simp only [loadMessage, segmentFrames_congr h]
  cases hd : s.dead with
  | true => rw [exec_dead _ hd, exec_dead _ hd]
  | false => rw [exec_fromp pin len seq hd, exec_fromp pin' len seq hd, hload]

/-! ## The word a step takes -/

theorem serve_of_decode {w : Raw} {i : Instr} (h : decode w = .ok i) (s : State) : serve w s = exec i s := by
  simp [serve, h]

/-- With `w` put where the step takes its next action, the step runs `w` on the state as it was before. -/
theorem step_enqueue (w : Raw) (s : State) : step (enqueue w s) = settle s (serve w s) :=
  step_issue (enqueue_requests w s)

/-- A table word that decodes stands for something the host can hand over, and that is what decodes. -/
theorem exists_raw_of_decodeTableWord {nbits w : Nat} {i : Instr} (h : decodeTableWord nbits w = some i) :
    ∃ raw, tableRaw nbits w = some raw ∧ decode raw = .ok i := by
  unfold decodeTableWord at h
  split at h
  · cases h
  rename_i raw hraw
  split at h <;> rename_i hdec <;> cases h
  exact ⟨raw, hraw, hdec⟩

theorem withFetchWord_of_tableRaw {nbits w : Nat} {raw : Raw} (h : tableRaw nbits w = some raw) (s : State) :
    s.withFetchWord nbits w = enqueue raw s := by
  simp [State.withFetchWord, enqueueTableWord, h]

/-- Settles O5: a step serves the word it takes, and serving a word that decodes is `exec` of what it decodes to. -/
theorem stepRunsDecodedInstruction : Obligations.StepRunsDecodedInstruction := by
  refine ⟨fun s w i rest hq hw => ?_, fun s nbits w i hw => ?_⟩
  · rw [step_issue hq, serve_of_decode hw]
  · obtain ⟨raw, hraw, hdec⟩ := exists_raw_of_decodeTableWord hw
    rw [withFetchWord_of_tableRaw hraw, step_enqueue, serve_of_decode hdec]

end Sys2Proof.Proofs
end

section
/-! SUPPORT. The decoder and the encoder (spec/30_encoding.md): the requests that decode to an instruction are those that ask
for it (`decodeRequest_ok_iff`), and the bytes of a wire frame are its decoding packed again. Then the proofs of the
statements of 30_encoding.md, and of the two rows that feed a received wire frame to the block. -/

namespace Sys2Proof.Proofs

open Machine Safety

/-! ## The wire formats -/

theorem packByte0_eq_ofNat (seq : BitVec 3) (idx : BitVec 5) :
    packByte0 seq idx = BitVec.ofNat 8 (seq.toNat * 32 + idx.toNat) := by
  rw [← packByte0_toNat, BitVec.ofNat_toNat, BitVec.setWidth_eq]

theorem packFirst_eq (seq : BitVec 3) (len : Byte) (p : Payload6) :
    packFirst seq len p = ⟨BitVec.ofNat 8 (seq.toNat * 32), len, p.p0, p.p1, p.p2, p.p3, p.p4, p.p5⟩ := by
  rw [packFirst, packByte0_eq_ofNat]; rfl

theorem packConsec_eq (seq : BitVec 3) (idx : BitVec 5) (p : Payload7) :
    packConsec seq idx p =
      ⟨BitVec.ofNat 8 (seq.toNat * 32 + idx.toNat), p.p0, p.p1, p.p2, p.p3, p.p4, p.p5, p.p6⟩ := by
  rw [packConsec, packByte0_eq_ofNat]

theorem isFirst_iff_mod (f : Frame) : isFirst f = true ↔ f.b0.toNat % 32 = 0 := by
  rw [isFirst_iff, ← BitVec.toNat_inj]; simp [idxOf]

theorem decodeWire_first {f : Frame} (h : isFirst f = true) :
    decodeWire f = .frameFirst (seqOf f) f.b1 (firstPayload f) := if_pos h

theorem decodeWire_consec {f : Frame} (h : isFirst f = false) :
    decodeWire f = .frameConsec (seqOf f) (idxOf f) (consecPayload f) := if_neg (by simp [h])

theorem decodeWire_packFirst (seq : BitVec 3) (len : Byte) (p : Payload6) :
    decodeWire (packFirst seq len p) = .frameFirst seq len p := by
  rw [decodeWire_first (isFirst_packFirst seq len p), seqOf_packFirst]; rfl

theorem decodeWire_packConsec (seq : BitVec 3) {idx : BitVec 5} (p : Payload7) (h : idx ≠ 0) :
    decodeWire (packConsec seq idx p) = .frameConsec seq idx p := by
  rw [decodeWire_consec (by simpa using h), seqOf_packConsec, idxOf_packConsec]; rfl

theorem encode_decodeWire (f : Frame) : encode (decodeWire f) = .wire f := by
  cases hf : isFirst f with
  | true => rw [decodeWire_first hf, encode, packFirst_split hf]
  | false => rw [decodeWire_consec hf, encode, packConsec_split]

/-- Settles O2: an operation's request holds its operands where the decoder reads them; of the wire formats only a
FRAME.CONSEC of index 0 would be read as the other format, and it is not well formed. -/
theorem decodeOfEncode : Obligations.DecodeOfEncode := by
  intro i hwf
  cases i with
  | frameFirst seq len p => exact congrArg Except.ok (decodeWire_packFirst seq len p)
  | frameConsec seq idx p => exact congrArg Except.ok (decodeWire_packConsec seq p (by simpa [Instr.wf] using hwf))
  | encf | encc | dec | fseq | fidx | fisf | flen | fpay | newrx | addf | getp | fromp | popf | clr | mcnt | mseq
  | mlen => rfl

/-- Settles O3: the decoder's own instruction, whose format `isFirst` tells. -/
theorem wireFrameHasOneFormat : Obligations.WireFrameHasOneFormat := by
  intro f
  have henc := encode_decodeWire f
  cases hf : isFirst f with
  | true =>
    have hdec := decodeWire_first hf
    exact ⟨_, rfl, hdec ▸ rfl, henc, .inl ⟨(isFirst_iff_mod f).mp hf, _, _, hdec⟩⟩
  | false =>
    have hdec := decodeWire_consec hf
    have hidx : f.b0.toNat % 32 ≠ 0 := by simp [← isFirst_iff_mod, hf]
    have hwf : (decodeWire f).wf = true := by simpa [hdec, Instr.wf, isFirst] using hf
    exact ⟨_, rfl, hwf, henc, .inr ⟨hidx, _, _, _, hdec⟩⟩

/-! ## Requests -/

theorem decodeRequest_reserved {r : Request} (h : 0x11 ≤ r.op.toNat) : decodeRequest r = .error (.reservedOp r.op) := by
  unfold decodeRequest
  split
  case h_18 => rfl
  all_goals omega

theorem decodeRequest_of_asksFor {r : Request} {i : Instr} (h : asksFor r i) : decodeRequest r = .ok i := by
  obtain ⟨op, fin, pin, len, seq, idx⟩ := r
  cases i with
  | encf p =>
    obtain ⟨rfl, hpin, rfl, rfl⟩ := h
    rw [← (portSix_eq_iff pin p).mpr hpin]; rfl
  | encc p =>
    obtain ⟨rfl, hpin, rfl, rfl⟩ := h
    rw [← (portSeven_eq_iff pin p).mpr hpin]; rfl
  | fromp => obtain ⟨rfl, rfl, rfl, rfl⟩ := h; rfl
  | dec | fseq | fidx | fisf | flen | fpay | addf => obtain ⟨rfl, rfl⟩ := h; rfl
  | newrx | getp | popf | clr | mcnt | mseq | mlen => obtain rfl := h; rfl
  | frameFirst | frameConsec => exact h.elim

theorem asksFor_of_decodeRequest {r : Request} {i : Instr} (h : decodeRequest r = .ok i) : asksFor r i := by
  unfold decodeRequest at h
  split at h <;> cases h
  case h_1 hop => exact ⟨BitVec.eq_of_toNat_eq hop, (portSix_eq_iff _ _).mp rfl, rfl, rfl⟩
  case h_2 hop => exact ⟨BitVec.eq_of_toNat_eq hop, (portSeven_eq_iff _ _).mp rfl, rfl, rfl⟩
  case h_12 hop => exact ⟨BitVec.eq_of_toNat_eq hop, rfl, rfl, rfl⟩
  case h_3 hop | h_4 hop | h_5 hop | h_6 hop | h_7 hop | h_8 hop | h_10 hop => exact ⟨BitVec.eq_of_toNat_eq hop, rfl⟩
  case h_9 hop | h_11 hop | h_13 hop | h_14 hop | h_15 hop | h_16 hop | h_17 hop => exact BitVec.eq_of_toNat_eq hop

/-- The decoder is the table of R80 with the fields of R78. -/
theorem decodeRequest_ok_iff (r : Request) (i : Instr) : decodeRequest r = .ok i ↔ asksFor r i :=
  ⟨asksFor_of_decodeRequest, decodeRequest_of_asksFor⟩

theorem exists_asksFor {r : Request} (h : r.op.toNat ≤ 0x10) : ∃ i, asksFor r i := by
  simp only [← decodeRequest_ok_iff]
  unfold decodeRequest
  split
  case h_18 => simp only [imp_false] at *; omega
  all_goals exact ⟨_, rfl⟩

theorem wf_of_asksFor {r : Request} {i : Instr} (h : asksFor r i) : i.wf = true := by
  cases i with
  | frameFirst | frameConsec => exact h.elim
  | _ => rfl

theorem encode_of_asksFor {r : Request} {i : Instr} (h : asksFor r i) : ∃ r', encode i = .request r' ∧ r'.op = r.op := by
  cases i with
  | encf | encc | dec | fseq | fidx | fisf | flen | fpay | addf | fromp => exact ⟨_, rfl, h.1.symm⟩
  | newrx | getp | popf | clr | mcnt | mseq | mlen => exact ⟨_, rfl, h.symm⟩
  | frameFirst | frameConsec => exact h.elim

/-! ## Unused fields -/

theorem asksFor_congr {r r' : Request} {i : Instr} (hag : agreeOnUsedFields r r') (hne : r.op ≠ 0x0B)
    (h : asksFor r i) : asksFor r' i := by
  obtain ⟨op, fin, pin, len, seq, idx⟩ := r
  obtain ⟨op', fin', pin', len', seq', idx'⟩ := r'
  obtain ⟨hop, hused⟩ := hag
  obtain rfl : op = op' := hop
  cases i with
  | encf | encc =>
    obtain ⟨rfl, hpin, rfl, rfl⟩ := h
    obtain ⟨hpin', rfl, rfl⟩ := hused
    exact ⟨rfl, hpin'.symm.trans hpin, rfl, rfl⟩
  | fromp => exact absurd h.1 hne
  | dec | fseq | fidx | fisf | flen | fpay | addf =>
    obtain ⟨rfl, rfl⟩ := h
    exact ⟨rfl, Eq.symm hused⟩
  | newrx | getp | popf | clr | mcnt | mseq | mlen => exact h
  | frameFirst | frameConsec => exact h.elim

theorem decodeRequest_congr {r r' : Request} (hag : agreeOnUsedFields r r') (hne : r.op ≠ 0x0B) :
    decodeRequest r = decodeRequest r' := by
  rcases Nat.lt_or_ge r.op.toNat 0x11 with hop | hop
  · obtain ⟨i, hi⟩ := exists_asksFor (Nat.le_of_lt_succ hop)
    rw [decodeRequest_of_asksFor hi, decodeRequest_of_asksFor (asksFor_congr hag hne hi)]
  · rw [decodeRequest_reserved hop, decodeRequest_reserved (hag.1 ▸ hop), hag.1]

/-- FROMP's instruction carries the whole port, but what it does rests on the payload's bytes alone (R57). -/
theorem serve_request_congr {r r' : Request} (hag : agreeOnUsedFields r r') (s : State) :
    serve (.request r) s = serve (.request r') s := by
  by_cases hfromp : r.op = 0x0B
  · obtain ⟨op, fin, pin, len, seq, idx⟩ := r
    obtain ⟨op', fin', pin', len', seq', idx'⟩ := r'
    obtain ⟨rfl, hused⟩ := hag
    obtain rfl : op = 0x0B := hfromp
    obtain ⟨hpin, rfl, rfl⟩ := hused
    exact frompIgnoresBytesBeyondLength pin pin' len seq s hpin
  · simp only [serve, decode, decodeRequest_congr hag hfromp]

/-- Settles O4: by the table read from the request's side (`asksFor`), and FROMP's indifference to the unused bytes. -/
theorem requestDecodesByOpAlone : Obligations.RequestDecodesByOpAlone := by
  refine ⟨fun r => ⟨decodeRequest_reserved, fun hop => ?_, decodeRequest_ok_iff r⟩,
    fun r r' hag => ⟨decodeRequest_congr hag, fun s rest => ?_⟩⟩
  · obtain ⟨i, hi⟩ := exists_asksFor hop
    obtain ⟨r', henc, hop'⟩ := encode_of_asksFor hi
    exact ⟨i, r', decodeRequest_of_asksFor hi, wf_of_asksFor hi, henc, hop',
      henc ▸ decodeOfEncode i (wf_of_asksFor hi)⟩
  · rw [step_issue rfl, step_issue rfl, serve_request_congr hag]

/-- Settles O1: each word read in its own numbering. -/
theorem sampleWordsDecode : Obligations.SampleWordsDecode :=
  ⟨rfl, rfl, rfl, rfl, rfl, rfl, rfl, rfl⟩

theorem serve_reserved {r : Request} (h : 0x11 ≤ r.op.toNat) (s : State) : serve (.request r) s = illegalCommand s := by
  simp only [serve, decode, decodeRequest_reserved h]

/-- Settles O13: a reserved code does not decode, and a live block answers what does not decode with IllegalCommand. -/
theorem reservedOpAnswersIllegalCommand : Obligations.ReservedOpAnswersIllegalCommand := by
  intro s r rest hd hq hop
  have hlive : { s with requests := rest }.dead = false := hd
  rw [step_issue hq, serve_reserved hop, illegalCommand, whenLive_live hlive]
  exact ⟨rfl, rfl⟩

/-! ## Received wire frames -/

/-- A first frame where there is room (R125), with the state it leaves written out. -/
theorem addFrame_first_room {f : Frame} {s : State} (hdir : s.dir = .rx) (hfull : messageFull s = false)
    (hf : isFirst f = true) (hroom : count s ≠ Config.cap) :
    addFrame f s = .next { s with
      dfc := BitVec.ofNat 6 (framesFor f.b1.toNat), sid := seqOf f, tdl := f.b1, lfi := 0
      store := s.store ++ [f], resp := some (.flag (firstCompletes f)) } := by
  rw [addFrame_first hdir hfull hf, addFirst, storeFrame_room (by exact hroom)]; rfl

/-- The next consecutive frame in order where there is room (R127), with the state it leaves written out. -/
theorem addFrame_consec_room {f : Frame} {s : State} (hdir : s.dir = .rx) (hfull : messageFull s = false)
    (hs : seqOf f = s.sid) (ho : (idxOf f).toNat = s.lfi.toNat + 1) (hroom : count s ≠ Config.cap) :
    addFrame f s = .next { s with
      lfi := idxOf f, store := s.store ++ [f], resp := some (.flag (consecCompletes f s)) } := by
  have hf : isFirst f = false := by
    rw [← Bool.not_eq_true, isFirst_iff]
    intro h0
    simp [h0] at ho
  rw [addFrame_consec_inOrder hdir hfull hf hs ((inOrder_iff f s).mpr ho), storeFrame_room (by exact hroom)]; rfl

/-- Settles O47: the packed frame is a first frame, which ADDF stores with its metadata where there is room. -/
theorem wireFirstFrameStored : Obligations.WireFirstFrameStored := by
  intro seq len p s
  rw [← packFirst_eq]
  refine ⟨rfl, fun hd hdir hfull hroom => ?_⟩
  rw [← messageFull_iff, Bool.not_eq_true] at hfull
  rw [exec_offered rfl, whenLive_live hd, addFrame_first_room hdir hfull (isFirst_packFirst seq len p) hroom,
    seqOf_packFirst]
  rfl

/-- Settles O48: the packed frame has the id and the index given, so ADDF stores it as the next in order. -/
theorem wireConsecutiveFrameStored : Obligations.WireConsecutiveFrameStored := by
  intro seq idx p s
  rw [← packConsec_eq]
  refine ⟨rfl, fun hd hdir hfull hroom hseq hidx => ?_⟩
  rw [← messageFull_iff, Bool.not_eq_true] at hfull
  rw [exec_offered rfl, whenLive_live hd, addFrame_consec_room hdir hfull ((seqOf_packConsec seq idx p).trans hseq)
    (by rwa [idxOf_packConsec]) hroom, consecCompletes, idxOf_packConsec]

end Sys2Proof.Proofs
end

section
/-! SUPPORT. The Frame Codec (spec/40_frame_codec.md): what each of the eight operations answers on a live block, in terms of
the frame's fields, and the fields as numbers of byte 0 (R70). Then the proofs of the statements of 40_frame_codec.md. -/

namespace Sys2Proof.Proofs

open Machine Safety

/-! ## The fields as numbers -/

/-- Byte 0 of every frame, packed by the encoder or not (R70, R108). -/
theorem byte0_toNat (f : Frame) : f.b0.toNat = (seqOf f).toNat * 32 + (idxOf f).toNat := by
  rw [← packByte0_toNat]
  exact congrArg BitVec.toNat (packByte0_split f.b0).symm

theorem seqOf_toNat (f : Frame) : (seqOf f).toNat = f.b0.toNat / 32 := by
  have := byte0_toNat f
  omega

theorem idxOf_toNat (f : Frame) : (idxOf f).toNat = f.b0.toNat % 32 := by
  have := byte0_toNat f
  omega

theorem isFirst_eq_mod (f : Frame) : isFirst f = (f.b0.toNat % 32 == 0) := by
  rw [Bool.eq_iff_iff, isFirst_iff_mod, beq_iff_eq]

theorem declaredLen_eq_mod (f : Frame) : declaredLen f = if f.b0.toNat % 32 = 0 then some f.b1 else none := by
  simp only [declaredLen, isFirst_iff_mod]

theorem payloadView_of_mod_eq {f : Frame} (h : f.b0.toNat % 32 = 0) :
    payloadView f = [f.b2, f.b3, f.b4, f.b5, f.b6, f.b7] :=
  if_pos ((isFirst_iff_mod f).mpr h)

theorem payloadView_of_mod_ne {f : Frame} (h : f.b0.toNat % 32 ≠ 0) :
    payloadView f = [f.b1, f.b2, f.b3, f.b4, f.b5, f.b6, f.b7] :=
  if_neg (mt (isFirst_iff_mod f).mp h)

/-! ## Operands in range pass through their fields unchanged -/

theorem seqField_setWidth {s : Byte} (h : s.toNat ≤ 7) : (seqField s).setWidth 8 = s := by
  rw [← BitVec.ofNat_toNat, seqField_toNat h, BitVec.ofNat_toNat, BitVec.setWidth_eq]

theorem idxField_setWidth {i : Byte} (h : i.toNat ≤ 31) : (idxField i).setWidth 8 = i := by
  rw [← BitVec.ofNat_toNat, idxField_toNat h, BitVec.ofNat_toNat, BitVec.setWidth_eq]

theorem idxField_ne_zero {i : Byte} (hpos : 1 ≤ i.toNat) (h : i.toNat ≤ 31) : idxField i ≠ 0 := by
  rw [BitVec.toNat_ne, idxField_toNat h]
  exact Nat.ne_of_gt hpos

theorem declaredLen_packFirst (s : BitVec 3) (l : Byte) (p : Payload6) : declaredLen (packFirst s l p) = some l :=
  if_pos (isFirst_packFirst s l p)

theorem declaredLen_packConsec (s : BitVec 3) {i : BitVec 5} (p : Payload7) (h : i ≠ 0) :
    declaredLen (packConsec s i p) = none :=
  if_neg (by simpa using h)

/-! ## What each operation answers -/

section
variable {s : State} (hd : s.dead = false)
include hd

theorem exec_encf (p : Payload6) (len seq : Byte) :
    exec (.encf p len seq) s = .next { s with resp := some (.frame (packFirst (seqField seq) len p)) } :=
  whenLive_live hd _

theorem exec_encc_inRange (p : Payload7) {seq idx : Byte} (hseq : seq.toNat ≤ 7) (hidx : idx.toNat ≤ 31) :
    exec (.encc p seq idx) s =
      .next { s with resp := some (.frame (packConsec (seqField seq) (idxField idx) p)) } := by
  rw [show exec (.encc p seq idx) s = _ from whenLive_live hd _, encConsec_eq, if_neg (by omega)]
  rfl

theorem exec_encc_outOfRange (p : Payload7) {seq idx : Byte} (h : 7 < seq.toNat ∨ 31 < idx.toNat) :
    exec (.encc p seq idx) s = .next { s with resp := some (.error .invalidParameter) } := by
  rw [show exec (.encc p seq idx) s = _ from whenLive_live hd _, encConsec_eq, if_pos h]
  rfl

theorem exec_dec (f : Frame) : exec (.dec f) s = .next { s with resp := some (.frame f) } :=
  whenLive_live hd _

theorem exec_fseq (f : Frame) : exec (.fseq f) s = .next { s with resp := some (.value ((seqOf f).setWidth 8)) } :=
  whenLive_live hd _

theorem exec_fidx (f : Frame) : exec (.fidx f) s = .next { s with resp := some (.value ((idxOf f).setWidth 8)) } :=
  whenLive_live hd _

theorem exec_fisf (f : Frame) : exec (.fisf f) s = .next { s with resp := some (.flag (isFirst f)) } :=
  whenLive_live hd _

theorem exec_flen (f : Frame) : exec (.flen f) s = .next { s with resp := some (.optValue (declaredLen f)) } :=
  whenLive_live hd _

theorem exec_fpay (f : Frame) : exec (.fpay f) s = .next { s with resp := some (.view (payloadView f)) } :=
  whenLive_live hd _

end

/-! ## The operations one by one -/

/-- Settles O14: the field of `seq_in` is its value mod 8. -/
theorem encfPacksFirstFrame : Obligations.EncfPacksFirstFrame := by
  intro p len seq s hd
  have hfield : (seqField seq).toNat = seq.toNat % 8 := BitVec.toNat_setWidth 3 seq
  rw [exec_encf hd, packFirst_eq, hfield]

/-- Settles O15: within the ranges the fields hold the operands themselves. -/
theorem enccPacksOrRefuses : Obligations.EnccPacksOrRefuses := by
  refine fun p seq idx s hd => ⟨fun ⟨hseq, hidx⟩ => ?_, exec_encc_outOfRange hd p⟩
  rw [exec_encc_inRange hd p hseq hidx, packConsec_eq, seqField_toNat hseq, idxField_toNat hidx]

/-- Settles O16: a live block hands the frame it is given back. -/
theorem decGivesFrameBack : Obligations.DecGivesFrameBack := fun f _ hd => exec_dec hd f

/-- Settles O17: the sequence id is byte 0 divided by 32. -/
theorem fseqReadsTopThreeBits : Obligations.FseqReadsTopThreeBits := by
  intro f s hd
  rw [exec_fseq hd, ← seqOf_toNat, BitVec.ofNat_toNat]

/-- Settles O18: the frame index is byte 0 mod 32. -/
theorem fidxReadsLowFiveBits : Obligations.FidxReadsLowFiveBits := by
  intro f s hd
  rw [exec_fidx hd, ← idxOf_toNat, BitVec.ofNat_toNat]

/-- Settles O19: `isFirst` is the test of byte 0 mod 32. -/
theorem fisfTestsIndexZero : Obligations.FisfTestsIndexZero := by
  intro f s hd
  rw [exec_fisf hd, isFirst_eq_mod]

/-- Settles O20: a frame declares a length exactly when byte 0 is 0 mod 32. -/
theorem flenReadsDeclaredLength : Obligations.FlenReadsDeclaredLength := by
  intro f s hd
  rw [exec_flen hd, declaredLen_eq_mod]

/-- Settles O21: the answer is the payload view, whose length and bytes follow the kind of frame. -/
theorem fpayGivesPayloadView : Obligations.FpayGivesPayloadView := by
  refine fun f s hd => ⟨_, exec_fpay hd f, fun h => ?_, fun h => ?_⟩
  · rw [payloadView_of_mod_eq h]
    exact ⟨rfl, rfl⟩
  · rw [payloadView_of_mod_ne h]
    exact ⟨rfl, rfl⟩

/-! ## The operations together -/

/-- Settles O22: the accessors read the fields of the packed frame (`seqOf_packFirst` and the others), and operands in
range are what their fields hold. -/
theorem accessorsReadBackEncoders : Obligations.AccessorsReadBackEncoders := by
  refine ⟨fun p len seq s hd hseq => ⟨_, exec_encf hd p len seq, ?_, ?_, ?_, ?_⟩,
    fun p seq idx s hd hseq hpos hidx => ⟨_, exec_encc_inRange hd p hseq hidx, ?_, ?_, ?_, ?_⟩, byte0_toNat⟩
  · rw [exec_fseq hd, seqOf_packFirst, seqField_setWidth hseq]
  · rw [exec_fidx hd, idxOf_packFirst]; rfl
  · rw [exec_flen hd, declaredLen_packFirst]
  · rw [exec_fpay hd, payloadView_packFirst]
  · rw [exec_fseq hd, seqOf_packConsec, seqField_setWidth hseq]
  · rw [exec_fidx hd, idxOf_packConsec, idxField_setWidth hidx]
  · rw [exec_flen hd, declaredLen_packConsec _ p (idxField_ne_zero hpos hidx)]
  · rw [exec_fpay hd, payloadView_packConsec _ p (idxField_ne_zero hpos hidx)]

/-- Settles O23: the answers above name the operands alone, and ENCC's out of range is the only error among them. -/
theorem codecAnswersFromRequestAlone : Obligations.CodecAnswersFromRequestAlone := by
  intro i hi
  cases i with
  | encf p len seq => exact ⟨_, fun _ hd => exec_encf hd p len seq, nofun⟩
  | encc p seq idx =>
    by_cases h : 7 < seq.toNat ∨ 31 < idx.toNat
    · exact ⟨_, fun _ hd => exec_encc_outOfRange hd p h, fun _ => ⟨p, seq, idx, rfl⟩⟩
    · exact ⟨_, fun _ hd => exec_encc_inRange hd p (by omega) (by omega), nofun⟩
  | dec f => exact ⟨_, fun _ hd => exec_dec hd f, nofun⟩
  | fseq f => exact ⟨_, fun _ hd => exec_fseq hd f, nofun⟩
  | fidx f => exact ⟨_, fun _ hd => exec_fidx hd f, nofun⟩
  | fisf f => exact ⟨_, fun _ hd => exec_fisf hd f, nofun⟩
  | flen f => exact ⟨_, fun _ hd => exec_flen hd f, nofun⟩
  | fpay f => exact ⟨_, fun _ hd => exec_fpay hd f, nofun⟩
  | newrx | addf | getp | fromp | popf | clr | mcnt | mseq | mlen | frameFirst | frameConsec => cases hi

end Sys2Proof.Proofs
end

section
/-! SUPPORT. The receive path (spec/41_receive.md): which error ADDF answers (`addfRaises`) and what it stores, what GETP
writes, and the frames of FROMP fed back to ADDF. Then the proofs of the statements of 41_receive.md. -/

namespace Sys2Proof.Proofs

open Machine Safety

/-! ## The errors of ADDF -/

/-- The tests of ADDF in the order they are taken: the first that fails names the error (R122, R123, R126, R127). -/
theorem addFrame_of_addfRaises {f : Frame} {s : State} {e : ErrorCode} (h : addfRaises f s e) :
    addFrame f s = raise e s := by
  cases e with
  | transmissionTypeMismatch => exact if_pos h
  | fullQueue =>
    obtain ⟨hdir, hfull⟩ := h
    simp [addFrame, hdir, (messageFull_iff s).mpr hfull]
  | sequenceCountError =>
    obtain ⟨hdir, hfull, hidx, hseq⟩ := h
    rw [← messageFull_iff] at hfull
    rw [ne_eq, ← isFirst_iff] at hidx
    simp [addFrame, addConsec, hdir, hfull, hidx, hseq]
  | sequenceMismatch =>
    obtain ⟨hdir, hfull, hidx, hseq, hord⟩ := h
    rw [← messageFull_iff] at hfull
    rw [ne_eq, ← isFirst_iff] at hidx
    rw [ne_eq, ← inOrder_iff] at hord
    simp [addFrame, addConsec, hdir, hfull, hidx, hseq, hord]
  | invalidParameter | emptyQueue | illegalCommand => exact h.elim

/-- A frame that fails a test of ADDF meets one of its errors. -/
theorem exists_addfRaises_of_not_accepts {f : Frame} {s : State} (h : ¬ accepts f s) : ∃ e, addfRaises f s e := by
  cases hdir : s.dir with
  | tx => exact ⟨.transmissionTypeMismatch, hdir⟩
  | rx =>
    by_cases hfull : count s ≠ 0 ∧ count s = s.dfc.toNat
    · exact ⟨.fullQueue, hdir, hfull⟩
    have hkind := fun hk => h ⟨hdir, hfull, hk⟩
    by_cases hseq : seqOf f = s.sid
    · exact ⟨.sequenceMismatch, hdir, hfull, fun h0 => hkind (.inl h0), hseq, fun hord => hkind (.inr ⟨hseq, hord⟩)⟩
    · exact ⟨.sequenceCountError, hdir, hfull, fun h0 => hkind (.inl h0), hseq⟩

theorem exec_addf (f : Frame) {s : State} (hd : s.dead = false) : exec (.addf f) s = addFrame f s :=
  whenLive_live hd _

theorem exec_addf_of_addfRaises {f : Frame} {s : State} {e : ErrorCode} (hd : s.dead = false) (h : addfRaises f s e) :
    exec (.addf f) s = .next { s with resp := some (.error e) } :=
  (exec_addf f hd).trans (addFrame_of_addfRaises h)

/-- ADDF answers an error only where the table of R181 states that error. -/
theorem addfRaises_of_exec_addf {f : Frame} {s t : State} {e : ErrorCode} (hd : s.dead = false)
    (h : exec (.addf f) s = .next t) (hresp : t.resp = some (.error e)) : addfRaises f s e := by
  rw [exec_addf f hd] at h
  by_cases ha : accepts f s
  · obtain ⟨b, s', -, heq⟩ := addFrame_of_accepts ha
    obtain ⟨-, rfl⟩ := storeFrame_next (heq.symm.trans h)
    cases hresp
  · obtain ⟨e', he⟩ := exists_addfRaises_of_not_accepts ha
    obtain rfl := respond_next ((addFrame_of_addfRaises he).symm.trans h)
    cases hresp
    exact he

/-- Settles O24: a live block runs NEWRX's body, the initial Message. -/
theorem newrxGivesEmptyReceiveMessage : Obligations.NewrxGivesEmptyReceiveMessage :=
  fun _ hd => exec_newrx hd

/-- Settles O25: the direction is ADDF's first test. -/
theorem addfRefusesTransmitMessage : Obligations.AddfRefusesTransmitMessage :=
  fun _ _ hd hdir => exec_addf_of_addfRaises hd (e := .transmissionTypeMismatch) hdir

/-- Settles O26: the table states FullQueue on a complete message, and ADDF answers no error the table does not state. -/
theorem addfRefusesCompleteMessage : Obligations.AddfRefusesCompleteMessage := by
  intro f s hd hdir
  refine ⟨fun hfull => exec_addf_of_addfRaises hd (e := .fullQueue) ⟨hdir, hfull⟩, fun hnot t h hresp => ?_⟩
  obtain ⟨-, hne, heq⟩ : addfRaises f s .fullQueue := addfRaises_of_exec_addf hd h hresp
  exact hnot.elim hne fun hcount => hcount heq

theorem idxOf_eq_zero_iff_mod (f : Frame) : idxOf f = 0 ↔ f.b0.toNat % 32 = 0 :=
  (isFirst_iff f).symm.trans (isFirst_iff_mod f)

/-- Settles O28: the id is the first test of a consecutive frame, before its index. -/
theorem addfRefusesOtherSequence : Obligations.AddfRefusesOtherSequence := by
  intro f s hd hdir hfull hidx hseq
  rw [← seqOf_toNat] at hseq
  exact exec_addf_of_addfRaises hd (e := .sequenceCountError)
    ⟨hdir, hfull, mt (idxOf_eq_zero_iff_mod f).mp hidx, mt (congrArg BitVec.toNat) hseq⟩

/-- Settles O30: the table of faults states it. -/
theorem addfFaultsOnFullStore : Obligations.AddfFaultsOnFullStore :=
  fun _ _ hd ha hcap => (exec_fault_iff hd).mpr ⟨ha, hcap⟩

/-! ## The frames ADDF stores -/

/-- Settles O27: a first frame passes every check, so the room alone decides. -/
theorem addfStoresFirstFrame : Obligations.AddfStoresFirstFrame := by
  intro f s hd hdir hfull hmod
  have hf : isFirst f = true := (isFirst_iff_mod f).mpr hmod
  refine ⟨fun hroom => ?_, addfFaultsOnFullStore f s hd ⟨hdir, hfull, .inl ((idxOf_eq_zero_iff_mod f).mpr hmod)⟩⟩
  have hflag : firstCompletes f = decide (f.b1.toNat ≤ 6) := by
    rw [Bool.eq_iff_iff, firstCompletes_iff, decide_eq_true_eq]
  rw [← messageFull_iff, Bool.not_eq_true] at hfull
  rw [exec_addf f hd, addFrame_first_room hdir hfull hf hroom, hflag, ← seqOf_toNat, BitVec.ofNat_toNat,
    BitVec.setWidth_eq, framesFor]

/-- Settles O29: of a frame with the Message's id the order test decides, then the room. -/
theorem addfStoresNextFrameInOrder : Obligations.AddfStoresNextFrameInOrder := by
  intro f s hd hdir hfull hidx hseq
  rw [← idxOf_toNat]
  rw [← seqOf_toNat] at hseq
  have hne : idxOf f ≠ 0 := mt (idxOf_eq_zero_iff_mod f).mp hidx
  have hsid : seqOf f = s.sid := BitVec.eq_of_toNat_eq hseq
  refine ⟨fun hord => ?_, fun hord hroom => ?_, fun hord => ?_⟩
  · exact exec_addf_of_addfRaises hd (e := .sequenceMismatch) ⟨hdir, hfull, hne, hsid, hord⟩
  · rw [← messageFull_iff, Bool.not_eq_true] at hfull
    rw [exec_addf f hd, addFrame_consec_room hdir hfull hsid hord hroom, BitVec.ofNat_toNat, BitVec.setWidth_eq,
      consecCompletes]
  · exact addfFaultsOnFullStore f s hd ⟨hdir, hfull, .inr ⟨hsid, hord⟩⟩

/-! ## What GETP writes -/

theorem memWrite_append (out : PayloadPort) (a : Nat) (v w : List Byte) :
    memWrite out a (v ++ w) = memWrite (memWrite out a v) (a + v.length) w := by
  induction v generalizing out a with
  | nil => rfl
  | cons b v ih => rw [List.cons_append, memWrite, memWrite, ih, List.length_cons, Nat.add_right_comm, Nat.add_assoc]

/-- The views stand one after the other with no gap, as one write of all of them would put them. -/
theorem writeViews_eq_memWrite (out : PayloadPort) (off : Nat) (store : List Frame) :
    writeViews out off store = memWrite out off (store.flatMap payloadView) := by
  induction store generalizing out off with
  | nil => rfl
  | cons f store ih => rw [writeViews, ih, List.flatMap_cons, memWrite_append]

theorem portOf_bytes (l : List Byte) (b : Byte) :
    (portOf l b).bytes = l.take 223 ++ List.replicate (223 - l.length) b := rfl

theorem payloadPort_ext {p q : PayloadPort} (h : p.bytes = q.bytes) : p = q := by
  cases p
  cases q
  cases h
  rfl

/-- Written over the fill from offset 0, bytes stand as `portOf` has them. -/
theorem memWrite_padPort (v : List Byte) : memWrite padPort 0 v = portOf v Config.pad := by
  refine payloadPort_ext (List.ext_getElem? fun p => ?_)
  obtain hp | hp := Nat.lt_or_ge p 223
  · rw [memWrite_getElem? v padPort 0 p hp]
    by_cases hv : p < v.length
    · simp [portOf_bytes, hv, hp, List.getElem?_append_left]
    · rw [if_neg (by omega), portOf_bytes, List.take_of_length_le (by omega), List.getElem?_append_right (by omega), padPort,
        List.getElem?_replicate, List.getElem?_replicate, if_pos hp, if_pos (by omega)]
  · have hnone (q : PayloadPort) : q.bytes[p]? = none := List.getElem?_eq_none (q.size.trans_le hp)
    rw [hnone, hnone]

/-- GETP's port holds the views of the store, oldest first, and the fill after them (R131). -/
theorem flattenStore_eq_portOf (store : List Frame) :
    flattenStore store = portOf (store.flatMap payloadView) Config.pad :=
  (writeViews_eq_memWrite padPort 0 store).trans (memWrite_padPort _)

/-- Settles O31: the port is the one `portOf` makes of the views. -/
theorem getpFlattensStore : Obligations.GetpFlattensStore :=
  fun s hd => ⟨flattenStore s.store, exec_getp hd, by rw [flattenStore_eq_portOf, portOf_bytes, Config.pad]⟩

/-! ## How much GETP writes -/

theorem length_flatMap_payloadView (store : List Frame) :
    (store.flatMap payloadView).length + (store.filter isFirst).length = 7 * store.length := by
  induction store with
  | nil => rfl
  | cons f store ih =>
    rw [List.flatMap_cons, List.length_append, payloadView_length, List.filter_cons, List.length_cons]
    split
    · rw [List.length_cons]
      omega
    · omega

/-- Frames none of which is a first frame lengthen the run by their number. -/
theorem runFrom_of_no_first {l : List Frame} (h : ∀ f ∈ l, isFirst f = false) (n : Nat) :
    runFrom n l = n + l.length := by
  induction l generalizing n with
  | nil => rfl
  | cons f l ih =>
    obtain ⟨hf, hl⟩ := List.forall_mem_cons.mp h
    have hstep : runFrom n (f :: l) = runFrom (n + 1) l := by simp [runFrom, hf]
    rw [hstep, ih hl, List.length_cons]
    omega

@[simp] theorem isFirst_segmentFirst (pin : PayloadPort) (len : Byte) (seq : BitVec 3) :
    isFirst (segmentFirst pin len seq) = true := isFirst_packFirst ..

/-- R132's argument: a Receive store with no first frame is one run, so no longer than `lfi`; a Transmit store with no
first frame has lost at least that one of at most 32. -/
theorem exists_first_or_count_le {s : State} (hs : Legal s) (hd : s.dead = false) :
    (∃ f ∈ s.store, isFirst f = true) ∨ count s ≤ 31 := by
  obtain ⟨-, hlive⟩ := hs
  obtain ⟨-, htx, hrx⟩ := hlive hd
  cases hdir : s.dir with
  | tx =>
    obtain ⟨pin, hlen, -, -, hstore⟩ := (transmitForm_iff s).mp (htx hdir)
    rw [segmentFrames, List.suffix_cons_iff] at hstore
    obtain hall | htail := hstore
    · exact .inl ⟨segmentFirst pin s.tdl s.sid, by simp [hall], isFirst_segmentFirst ..⟩
    · have hcount := htail.length_le
      have hframes := framesFor_le_of_payload hlen
      rw [List.length_map, List.length_range] at hcount
      exact .inr (by unfold count; omega)
  | rx =>
    obtain ⟨hrun, -⟩ := hrx hdir
    refine or_iff_not_imp_left.mpr fun hno => ?_
    have hall : tailRun s.store = 0 + s.store.length := runFrom_of_no_first (by simpa using hno) 0
    have := s.lfi.isLt
    unfold count
    omega

/-- Settles O32: six bytes for a first frame, seven for any other; with 32 frames one of them is a first frame. -/
theorem getpNeverOverrunsPort : Obligations.GetpNeverOverrunsPort := by
  intro s hs hd
  have hlen := length_flatMap_payloadView s.store
  refine ⟨hlen, ?_⟩
  have hwf : s.store.length ≤ Config.cap := hs.1
  have := cap_le
  obtain hfirst | hcount := exists_first_or_count_le hs hd
  · have := List.length_filter_pos_iff.mpr hfirst
    omega
  · unfold count at hcount
    omega

/-! ## The frames of FROMP, received -/

/-- Where FROMP answers a live block: its operands passed both tests, and it left the Message it builds (R140, R141). -/
theorem exec_fromp_next {pin : PayloadPort} {len seq : Byte} {s t : State} (hd : s.dead = false)
    (h : exec (.fromp pin len seq) s = .next t) :
    len.toNat ≤ 223 ∧ seq.toNat ≤ 7 ∧ framesFor len.toNat ≤ Config.cap ∧
      t = { loadMessage pin len seq s with resp := some .done } := by
  cases exec_effect h with
  | silent _ hdead => cases hd.symm.trans hdead
  | answered _ _ _ hi => cases hi.1
  | added _ _ _ _ hi => cases hi
  | cleared _ _ hi => simp at hi
  | loaded _ _ _ _ hlen hseq hcap => exact ⟨hlen, hseq, hcap, rfl⟩

@[simp] theorem seqOf_segmentFirst (pin : PayloadPort) (len : Byte) (seq : BitVec 3) :
    seqOf (segmentFirst pin len seq) = seq := seqOf_packFirst ..

@[simp] theorem seqOf_segmentConsec (pin : PayloadPort) (len : Byte) (seq : BitVec 3) (k : Nat) :
    seqOf (segmentConsec pin len seq k) = seq := seqOf_packConsec ..

@[simp] theorem idxOf_segmentConsec (pin : PayloadPort) (len : Byte) (seq : BitVec 3) (k : Nat) :
    idxOf (segmentConsec pin len seq k) = BitVec.ofNat 5 k := idxOf_packConsec ..

/-- The Message `u` becomes when frames `0` to `k` of a sequence that FROMP builds are added to it empty. -/
def receivedUpTo (pin : PayloadPort) (len : Byte) (seq : BitVec 3) (u : State) (k : Nat) : State :=
  { u with
    dfc := BitVec.ofNat 6 (framesFor len.toNat)
    sid := seq
    tdl := len
    lfi := BitVec.ofNat 5 k
    store := (segmentFrames pin len seq).take (k + 1)
    resp := some (.flag (k + 1 == framesFor len.toNat)) }

theorem count_receivedUpTo (pin : PayloadPort) (len : Byte) (seq : BitVec 3) (u : State) {k : Nat}
    (hk : k < framesFor len.toNat) : count (receivedUpTo pin len seq u k) = k + 1 := by
  rw [count, receivedUpTo, List.length_take, segmentFrames_length, Nat.min_eq_left hk]

theorem receivedUpTo_dfc_toNat (pin : PayloadPort) (len : Byte) (seq : BitVec 3) (u : State) (k : Nat) :
    (receivedUpTo pin len seq u k).dfc.toNat = framesFor len.toNat :=
  framesFor_byte_toNat len

theorem receivedUpTo_lfi_toNat (pin : PayloadPort) (len : Byte) (seq : BitVec 3) (u : State) {k : Nat} (hk : k < 32) :
    (receivedUpTo pin len seq u k).lfi.toNat = k :=
  Nat.mod_eq_of_lt hk

theorem take_segmentFrames_succ (pin : PayloadPort) (len : Byte) (seq : BitVec 3) {k : Nat}
    (hk : k + 1 < framesFor len.toNat) :
    (segmentFrames pin len seq).take (k + 1 + 1) =
      (segmentFrames pin len seq).take (k + 1) ++ [segmentConsec pin len seq (k + 1)] := by
  rw [List.take_add_one, segmentFrames_succ pin len seq hk, Option.toList_some]

/-- Frames that are all answered, and one more. -/
theorem receiveAll_concat {l : List Frame} {s t : State} (h : receiveAll l s = .next t) (f : Frame) :
    receiveAll (l ++ [f]) s = exec (.addf f) t := by
  induction l generalizing s with
  | nil =>
    cases h
    rw [List.nil_append, receiveAll]
    cases exec (.addf f) t <;> rfl
  | cons g l ih =>
    rw [receiveAll] at h
    rw [List.cons_append, receiveAll]
    split at h
    · exact ih h
    · next hno => exact absurd h (hno t)

section
variable {pin : PayloadPort} {len : Byte} {seq : BitVec 3} {u : State}
variable (hd : u.dead = false) (hdir : u.dir = .rx)
include hd hdir

theorem exec_addf_segmentFirst (hempty : u.store = []) :
    exec (.addf (segmentFirst pin len seq)) u = .next (receivedUpTo pin len seq u 0) := by
  have hcount : count u = 0 := by simp [count, hempty]
  have hfull : messageFull u = false := by simp [messageFull, hcount]
  have hroom : count u ≠ Config.cap := by
    have := cap_ge
    omega
  rw [exec_addf _ hd, addFrame_first_room hdir hfull (isFirst_segmentFirst ..) hroom, hempty, seqOf_segmentFirst,
    firstCompletes, BEq.comm]
  rfl

/-- Frame `k + 1` is in order after the frames `0` to `k`, which do not fill the Message while it is to come. -/
theorem exec_addf_segmentConsec (hcap : framesFor len.toNat ≤ Config.cap) {k : Nat} (hk : k + 1 < framesFor len.toNat) :
    exec (.addf (segmentConsec pin len seq (k + 1))) (receivedUpTo pin len seq u k) =
      .next (receivedUpTo pin len seq u (k + 1)) := by
  have hcap_le := cap_le
  have hcount := count_receivedUpTo pin len seq u (Nat.lt_of_succ_lt hk)
  have hdfc := receivedUpTo_dfc_toNat pin len seq u k
  have hlfi := receivedUpTo_lfi_toNat pin len seq u (k := k) (by omega)
  have hfull : messageFull (receivedUpTo pin len seq u k) = false := by
    rw [← Bool.not_eq_true, messageFull_iff]
    omega
  have hseq : seqOf (segmentConsec pin len seq (k + 1)) = (receivedUpTo pin len seq u k).sid := seqOf_segmentConsec ..
  have hidx : (idxOf (segmentConsec pin len seq (k + 1))).toNat = k + 1 := by
    rw [idxOf_segmentConsec]
    exact Nat.mod_eq_of_lt (by omega)
  rw [exec_addf _ (by exact hd), addFrame_consec_room (by exact hdir) hfull hseq (by omega) (by omega), consecCompletes,
    hidx, hdfc, idxOf_segmentConsec, receivedUpTo, receivedUpTo, take_segmentFrames_succ pin len seq hk]

/-- R135: the frames FROMP builds, fed in order to an empty Receive message, are all accepted. -/
theorem receiveAll_segmentFrames (hempty : u.store = []) (hcap : framesFor len.toNat ≤ Config.cap) {k : Nat}
    (hk : k < framesFor len.toNat) :
    receiveAll ((segmentFrames pin len seq).take (k + 1)) u = .next (receivedUpTo pin len seq u k) := by
  induction k with
  | zero => exact (receiveAll_concat (l := []) rfl _).trans (exec_addf_segmentFirst hd hdir hempty)
  | succ k ih =>
    rw [take_segmentFrames_succ pin len seq hk, receiveAll_concat (ih (by omega))]
    exact exec_addf_segmentConsec hd hdir hcap hk

end

/-- Settles O40: FROMP and the first frame it built write the same metadata. -/
theorem bothPathsCountFramesAlike : Obligations.BothPathsCountFramesAlike := by
  intro pin len seq s t u v f ht hd hf hu hv
  obtain ⟨-, -, -, rfl⟩ := exec_fromp_next hd ht
  obtain rfl := respond_next ((exec_newrx (by exact hd)).symm.trans hu)
  cases hf
  cases (exec_addf_segmentFirst (by exact hd) rfl rfl).symm.trans hv
  refine ⟨rfl, rfl, rfl, (framesFor_byte_toNat len).trans ?_⟩
  unfold framesFor
  split <;> omega

/-! ## The payload in the frames of FROMP -/

/-- `n` bytes fit the views of `frames_for(n)` frames (R121). -/
theorem le_viewBytes_framesFor (n : Nat) : n ≤ 6 + 7 * (framesFor n - 1) := by
  unfold framesFor
  omega

theorem payloadView_segmentFirst (pin : PayloadPort) (len : Byte) (seq : BitVec 3) :
    payloadView (segmentFirst pin len seq) = (List.range 6).map (payloadAt pin len.toNat) :=
  payloadView_packFirst ..

theorem payloadView_segmentConsec (pin : PayloadPort) (len : Byte) (seq : BitVec 3) {k : Nat} (hk : k < 31) :
    payloadView (segmentConsec pin len seq (k + 1)) =
      (List.range 7).map fun j => payloadAt pin len.toNat (6 + 7 * k + j) := by
  have hidx : BitVec.ofNat 5 (k + 1) ≠ 0 := by
    rw [BitVec.toNat_ne, BitVec.toNat_ofNat, Nat.mod_eq_of_lt (by omega)]
    exact Nat.succ_ne_zero k
  exact payloadView_packConsec _ _ hidx

/-- The `m` frames after the first carry the `7 * m` bytes that follow the first six. -/
theorem flatMap_payloadView_segmentConsec (pin : PayloadPort) (len : Byte) (seq : BitVec 3) {m : Nat} (hm : m ≤ 31) :
    ((List.range m).flatMap fun k => payloadView (segmentConsec pin len seq (k + 1))) =
      (List.range (7 * m)).map fun p => payloadAt pin len.toNat (6 + p) := by
  induction m with
  | zero => rfl
  | succ m ih =>
    rw [List.range_succ, List.flatMap_append, ih (by omega), List.flatMap_singleton,
      payloadView_segmentConsec pin len seq (by omega), Nat.mul_succ, List.range_add, List.map_append, List.map_map]
    simp only [Function.comp_def, Nat.add_assoc]

/-- The bytes FROMP puts in its frames are the payload and the fill up to the end of the last frame (R58, R141). -/
theorem map_payloadAt_range (pin : PayloadPort) {len n : Nat} (hlen : len ≤ 223) (hn : len ≤ n) :
    (List.range n).map (payloadAt pin len) = pin.bytes.take len ++ List.replicate (n - len) Config.pad := by
  have hsize := pin.size
  refine List.ext_getElem (by simp; omega) fun p _ _ => ?_
  rw [List.getElem_map, List.getElem_range, payloadAt_eq_take_getD, List.getElem_append]
  split <;> rename_i hp
  · rw [List.getD_eq_getElem _ _ hp]
  · rw [List.getD_eq_default _ _ (Nat.le_of_not_lt hp), List.getElem_replicate]

/-- R147: the views of the frames FROMP builds, one after the other, are the payload and the fill. -/
theorem flatMap_payloadView_segmentFrames (pin : PayloadPort) {len : Byte} (seq : BitVec 3) (hlen : len.toNat ≤ 223) :
    (segmentFrames pin len seq).flatMap payloadView =
      pin.bytes.take len.toNat ++
        List.replicate (6 + 7 * (framesFor len.toNat - 1) - len.toNat) Config.pad := by
  have hframes := framesFor_le_of_payload hlen
  have hfits := le_viewBytes_framesFor len.toNat
  rw [← map_payloadAt_range pin hlen hfits, segmentFrames, List.flatMap_cons, payloadView_segmentFirst,
    List.flatMap_map, flatMap_payloadView_segmentConsec pin len seq (by omega), List.range_add, List.map_append,
    List.map_map]
  rfl

/-- GETP of the frames FROMP builds: the fill of the last frame and the fill of the port are one (R135). -/
theorem flattenStore_segmentFrames (pin : PayloadPort) {len : Byte} (seq : BitVec 3) (hlen : len.toNat ≤ 223) :
    (flattenStore (segmentFrames pin len seq)).bytes =
      pin.bytes.take len.toNat ++ List.replicate (223 - len.toNat) Config.pad := by
  have hframes := framesFor_le_of_payload hlen
  have hfits := le_viewBytes_framesFor len.toNat
  have hviews := flatMap_payloadView_segmentFrames pin seq hlen
  have hlength : ((segmentFrames pin len seq).flatMap payloadView).length = 6 + 7 * (framesFor len.toNat - 1) := by
    simp only [hviews, List.length_append, List.length_take, List.length_replicate, pin.size]
    omega
  rw [flattenStore_eq_portOf, portOf_bytes, List.take_of_length_le (by omega), hlength, hviews, List.append_assoc,
    List.replicate_append_replicate]
  congr 2
  omega

/-- Settles O41: `receivedUpTo` is the Message after each frame; after the last it is full and holds what GETP flattens. -/
theorem roundTripReproducesPayload : Obligations.RoundTripReproducesPayload := by
  intro pin len seq s t u hd ht hu
  obtain ⟨hlen, hseq, hcap, rfl⟩ := exec_fromp_next hd ht
  have hfresh := respond_next ((exec_newrx (by exact hd)).symm.trans hu)
  have hlive : u.dead = false := by rw [hfresh]; exact hd
  have hdir : u.dir = .rx := by rw [hfresh]; rfl
  have hempty : u.store = [] := by rw [hfresh]; rfl
  have hsent : count { loadMessage pin len seq s with resp := some .done } = framesFor len.toNat :=
    segmentFrames_length pin len (seqField seq)
  have hadd {k : Nat} (hk : k < framesFor len.toNat) :=
    receiveAll_segmentFrames (pin := pin) (seq := seqField seq) hlive hdir hempty hcap hk
  rw [hsent]
  refine ⟨fun k hk => ⟨_, hadd hk, rfl⟩, ?_⟩
  obtain ⟨n, hn⟩ : ∃ n, framesFor len.toNat = n + 1 := ⟨_, rfl⟩
  have hn_lt : n < framesFor len.toNat := by omega
  have hall : (segmentFrames pin len (seqField seq)).take (n + 1) = segmentFrames pin len (seqField seq) :=
    List.take_of_length_le (by rw [segmentFrames_length, hn])
  have hcount := count_receivedUpTo pin len (seqField seq) u hn_lt
  have hdfc := receivedUpTo_dfc_toNat pin len (seqField seq) u n
  have hlfi := receivedUpTo_lfi_toNat pin len (seqField seq) u (k := n) (by have := framesFor_le_of_payload hlen; omega)
  have hv := hadd hn_lt
  rw [hall] at hv
  refine ⟨_, hv, hall, by omega, rfl, seqField_toNat hseq, by omega, fun f => ?_, _, exec_getp (by exact hlive), ?_⟩
  · exact exec_addf_of_addfRaises (by exact hlive) (e := .fullQueue) ⟨hdir, by omega, by omega⟩
  · rw [receivedUpTo, hall]
    exact flattenStore_segmentFrames pin (seqField seq) hlen

end Sys2Proof.Proofs
end

section
/-! SUPPORT. The transmit path (spec/42_transmit.md): the Message FROMP loads, read byte by byte by the layout of R58 and R141,
and repeated POPF in closed form (R145). Then the proofs of the statements of 42_transmit.md. -/

namespace Sys2Proof.Proofs

open Machine Safety

/-! ## FROMP's tests -/

/-- Settles O34: the two rows of FROMP in the table of faults. -/
theorem frompEntryChecks : Obligations.FrompEntryChecks := by
  intro pin len seq s hd
  refine ⟨fun hbad => (exec_fault_iff hd).mpr hbad, fun hlen hseq => (exec_fault_iff hd).trans ?_⟩
  exact ⟨fun ⟨_, _, hover⟩ => hover, fun hover => ⟨hlen, hseq, hover⟩⟩

/-- FROMP of operands that pass both tests answers, and leaves the Message it builds (R140, R141). -/
theorem exec_fromp_of_fits (pin : PayloadPort) {len seq : Byte} {s : State} (hd : s.dead = false) (hlen : len.toNat ≤ 223)
    (hseq : seq.toNat ≤ 7) (hcap : framesFor len.toNat ≤ Config.cap) :
    exec (.fromp pin len seq) s = .next { loadMessage pin len seq s with resp := some .done } := by
  have hpre : ¬ badPrecondition len seq = true := by
    rw [badPrecondition_iff]
    omega
  have hroom : ¬ overCapacity (framesFor len.toNat) = true := by
    rw [overCapacity_iff]
    omega
  rw [exec_fromp pin len seq hd, if_neg hpre, if_neg hroom, respond]

/-! ## The bytes of the frames FROMP builds -/

/-- `P(p)` of R141 for a payload within the port, where it does not matter what a place beyond the port would read as. -/
theorem payloadAt_eq_getD_zero (pin : PayloadPort) {len : Nat} (hlen : len ≤ 223) (p : Nat) :
    payloadAt pin len p = if p < len then pin.bytes.getD p 0 else 0xFF := by
  unfold payloadAt
  split
  · have hp : p < pin.bytes.length := by
      rw [pin.size]
      omega
    rw [portByte, List.getD_eq_getElem _ _ hp, List.getD_eq_getElem _ _ hp]
  · rfl

theorem frameBytes_segmentFirst (pin : PayloadPort) (len : Byte) (seq : BitVec 3) :
    frameBytes (segmentFirst pin len seq) =
      packByte0 seq 0 :: len :: (List.range 6).map (payloadAt pin len.toNat) := rfl

theorem frameBytes_segmentConsec (pin : PayloadPort) (len : Byte) (seq : BitVec 3) (k : Nat) :
    frameBytes (segmentConsec pin len seq (k + 1)) =
      packByte0 seq (BitVec.ofNat 5 (k + 1)) ::
        (List.range 7).map fun j => payloadAt pin len.toNat (6 + 7 * k + j) := rfl

theorem storeByte_of_getElem? {s : State} {k : Nat} {f : Frame} (h : s.store[k]? = some f) (j : Nat) :
    storeByte s k j = (frameBytes f)[j]? := by
  simp only [storeByte, h]

section
variable {pin : PayloadPort} {len : Byte} {seq : BitVec 3} {t : State}
variable (hstore : t.store = segmentFrames pin len seq)
include hstore

theorem storeByte_zero_of_segmentFrames (j : Nat) :
    storeByte t 0 j = (frameBytes (segmentFirst pin len seq))[j]? :=
  storeByte_of_getElem? (hstore ▸ segmentFrames_zero pin len seq) j

theorem storeByte_succ_of_segmentFrames {k : Nat} (hk : k + 1 < framesFor len.toNat) (j : Nat) :
    storeByte t (k + 1) j = (frameBytes (segmentConsec pin len seq (k + 1)))[j]? :=
  storeByte_of_getElem? (hstore ▸ segmentFrames_succ pin len seq hk) j

/-- Byte 0 of every frame is the id and the frame's own place (R70, R141): five bits hold the place of any frame that a
payload of at most 223 bytes needs. -/
theorem storeByte_byte0_of_segmentFrames (hlen : len.toNat ≤ 223) {k : Nat} (hk : k < framesFor len.toNat) :
    storeByte t k 0 = some (BitVec.ofNat 8 (seq.toNat * 32 + k)) := by
  have hframes := framesFor_le_of_payload hlen
  have hplace : (BitVec.ofNat 5 k).toNat = k := Nat.mod_eq_of_lt (by omega)
  have hbyte : storeByte t k 0 = some (packByte0 seq (BitVec.ofNat 5 k)) := by
    cases k with
    | zero => exact storeByte_zero_of_segmentFrames hstore 0
    | succ k => exact storeByte_succ_of_segmentFrames hstore hk 0
  rw [hbyte, packByte0_eq_ofNat, hplace]

/-- The first frame carries the payload's first six bytes (R58). -/
theorem storeByte_first_of_segmentFrames {j : Nat} (hj : j < 6) :
    storeByte t 0 (2 + j) = some (payloadAt pin len.toNat j) := by
  rw [storeByte_zero_of_segmentFrames hstore, frameBytes_segmentFirst, Nat.add_comm, List.getElem?_cons_succ,
    List.getElem?_cons_succ, List.getElem?_map, List.getElem?_range hj, Option.map_some]

/-- Frame `k + 1` carries the seven bytes from `6 + 7 * k` on (R58). -/
theorem storeByte_consec_of_segmentFrames {k j : Nat} (hk : k + 1 < framesFor len.toNat) (hj : j < 7) :
    storeByte t (k + 1) (1 + j) = some (payloadAt pin len.toNat (6 + 7 * k + j)) := by
  rw [storeByte_succ_of_segmentFrames hstore hk, frameBytes_segmentConsec, Nat.add_comm 1 j, List.getElem?_cons_succ,
    List.getElem?_map, List.getElem?_range hj, Option.map_some]

end

/-- Settles O35: FROMP leaves `loadMessage`, whose store is read byte by byte. -/
theorem frompBuildsEveryFrame : Obligations.FrompBuildsEveryFrame := by
  intro pin len seq s hd hlen hseq hcap
  have hsid : seqField seq = BitVec.ofNat 3 seq.toNat := (BitVec.ofNat_toNat 3 seq).symm
  have hstore : { loadMessage pin len seq s with resp := some .done }.store = segmentFrames pin len (seqField seq) := rfl
  refine ⟨_, exec_fromp_of_fits pin hd hlen hseq hcap, ?_, segmentFrames_length ..,
    storeByte_zero_of_segmentFrames hstore 1, fun j hj => ?_, fun k hk => ?_, fun k j hpos hk hj => ?_⟩
  · rw [← hsid]
    rfl
  · rw [storeByte_first_of_segmentFrames hstore hj, payloadAt_eq_getD_zero pin hlen]
  · rw [storeByte_byte0_of_segmentFrames hstore hlen hk, seqField_toNat hseq]
  · obtain ⟨k, rfl⟩ := Nat.exists_eq_add_one_of_ne_zero (Nat.ne_of_gt hpos)
    rw [storeByte_consec_of_segmentFrames hstore hk hj, payloadAt_eq_getD_zero pin hlen, Nat.add_sub_cancel]

/-! ## The payload in the frames FROMP builds -/

/-- Settles O39: `n` frames hold `7 * (L / 7) + 6` bytes, so the fill is `6 - L % 7` of them. -/
theorem segmentedViewsArePayload : Obligations.SegmentedViewsArePayload := by
  refine fun pin len seq hlen => ⟨flatMap_payloadView_segmentFrames pin seq hlen, ?_⟩
  unfold framesFor
  omega

/-! ## POPF -/

/-- Settles O37: the front of the store is the answer, and what is behind it stays; dropping from `[]` leaves `[]`. -/
theorem popfTakesOldestFrame : Obligations.PopfTakesOldestFrame := by
  refine fun s hd => ⟨fun f rest hs => ?_, fun hs => ?_⟩
  · rw [exec_popf hd, hs]
    rfl
  · have hdrop : s.store.drop 1 = s.store := by rw [hs, List.drop_nil]
    have hhead : s.store.head? = none := by rw [hs, List.head?_nil]
    rw [exec_popf hd, hdrop, hhead, respond]

/-- After `n + 1` POPF the store has lost its first `n + 1` frames, and the last answer was the frame in place `n`. -/
theorem popMany_succ {s : State} (hd : s.dead = false) (n : Nat) :
    popMany (n + 1) s = .next { s with store := s.store.drop (n + 1), resp := some (.optFrame s.store[n]?) } := by
  induction n generalizing s with
  | zero =>
    rw [popMany, exec_popf hd, List.head?_eq_getElem?]
    rfl
  | succ n ih =>
    rw [popMany, exec_popf hd, respond]
    refine (ih (by exact hd)).trans ?_
    rw [List.drop_drop, List.getElem?_drop, Nat.add_comm 1, Nat.add_comm 1]

/-- Settles O38: the answer and the state after any number of POPF. -/
theorem popfDrainsInOrder : Obligations.PopfDrainsInOrder :=
  fun _ n hd => ⟨_, popMany_succ hd n, rfl, rfl, rfl, rfl, rfl, rfl, rfl⟩

end Sys2Proof.Proofs
end

section
/-! SUPPORT. The management operations and the lifecycle (spec/43_management.md): the phase of a live block by its direction
(R166), and the phase each kind of instruction leaves (R167). Then the proofs of the statements of 43_management.md. -/

namespace Sys2Proof.Proofs

open Machine Safety

/-! ## CLR and the accessors -/

/-- Settles O6: a step with no action is silent. -/
theorem noAutomaticTransition : Obligations.NoAutomaticTransition := by
  intro s hq
  rw [step, nextAct_nil hq]
  rfl

/-- Settles O42: a live block runs CLR's body, the initial Message; a dead block only goes silent. -/
theorem clrGivesInitialMessage : Obligations.ClrGivesInitialMessage := by
  refine ⟨fun s hd => exec_clr hd, fun s t hd h => ?_⟩
  cases (exec_dead .clr hd).symm.trans h
  exact hd

section
variable {s : State} (hd : s.dead = false)
include hd

theorem exec_mcnt : exec .mcnt s = .next { s with resp := some (.value (s.dfc.setWidth 8)) } :=
  whenLive_live hd _

theorem exec_mseq : exec .mseq s = .next { s with resp := some (.value (s.sid.setWidth 8)) } :=
  whenLive_live hd _

theorem exec_mlen : exec .mlen s = .next { s with resp := some (.value s.tdl) } :=
  whenLive_live hd _

end

/-- Settles O44: zero extension keeps the number `dfc` holds. -/
theorem mcntAnswersDeclaredCount : Obligations.McntAnswersDeclaredCount := by
  intro s hd
  rw [exec_mcnt hd, BitVec.ofNat_toNat]

/-- Settles O45: zero extension keeps the number `sid` holds. -/
theorem mseqAnswersSequenceId : Obligations.MseqAnswersSequenceId := by
  intro s hd
  rw [exec_mseq hd, BitVec.ofNat_toNat]

/-- Settles O46: a live block runs MLEN's body. -/
theorem mlenAnswersDataLength : Obligations.MlenAnswersDataLength :=
  fun _ hd => exec_mlen hd

/-! ## The phase by the direction -/

theorem phase_of_tx {s : State} (hd : s.dead = false) (hdir : s.dir = .tx) :
    phase s = if count s = 0 then .txEmpty else .txLoaded := by
  simp [phase, hd, hdir]

theorem phase_of_rx {s : State} (hd : s.dead = false) (hdir : s.dir = .rx) :
    phase s =
      if count s = 0 then .rxEmpty else if count s = s.dfc.toNat then .rxComplete else .rxAssembling := by
  simp [phase, hd, hdir]

theorem phase_of_count_zero {s : State} (hd : s.dead = false) (hzero : count s = 0) :
    phase s = if s.dir = .tx then .txEmpty else .rxEmpty := by
  simp [phase, hd, hzero]

/-- The row TX_LOADED of R166. -/
theorem phase_eq_txLoaded_iff {s : State} : phase s = .txLoaded ↔ s.dead = false ∧ s.dir = .tx ∧ count s ≠ 0 := by
  unfold phase
  split_ifs <;> simp_all

/-- The phase does not read the response (R166). -/
@[simp] theorem phase_resp (s : State) (r : Option Response) : phase { s with resp := r } = phase s := rfl

/-! ## What each kind of instruction makes of the phase -/

/-- An error is the answer of an instruction that leaves the Message, or of an offered frame that is refused (R186). -/
theorem eq_of_exec_error {i : Instr} {s t : State} {e : ErrorCode} (h : exec i s = .next t)
    (hresp : t.resp = some (.error e)) : t = { s with resp := some (.error e) } := by
  cases exec_effect h with
  | silent | popped | flattened | cleared | loaded => cases hresp
  | answered =>
    cases hresp
    rfl
  | added _ _ _ _ _ h =>
    obtain ⟨_, rfl⟩ | ⟨-, -, -, -, rfl⟩ | ⟨-, -, -, -, -, -, rfl⟩ := addFrame_next h <;> cases hresp
    rfl

/-- The declared count in force after an accepted frame (R125, R127). -/
def dfcAfterAdd (f : Frame) (s : State) : Nat :=
  if idxOf f = 0 then framesFor f.b1.toNat else s.dfc.toNat

/-- What an accepted frame, answered with a flag, does to the pieces the phase is made of. -/
theorem addFrame_accepted {f : Frame} {s t : State} {b : Bool} (h : addFrame f s = .next t)
    (hresp : t.resp = some (.flag b)) :
    s.dir = .rx ∧ messageFull s = false ∧ count t = count s + 1 ∧ t.dfc.toNat = dfcAfterAdd f s := by
  obtain ⟨e, rfl⟩ | ⟨hdir, hfull, hf, -, rfl⟩ | ⟨hdir, hfull, hf, -, -, -, rfl⟩ := addFrame_next h
  · cases hresp
  · rw [isFirst_iff] at hf
    exact ⟨hdir, hfull, List.length_append, by rw [dfcAfterAdd, if_pos hf, framesFor_byte_toNat]⟩
  · rw [← Bool.not_eq_true, isFirst_iff] at hf
    exact ⟨hdir, hfull, List.length_append, by rw [dfcAfterAdd, if_neg hf]⟩

/-- The ADDF rows of R167 say one thing: complete exactly when `count + 1` is the declared count then in force. -/
theorem phaseAfterAdd_eq {f : Frame} {s : State} (hd : s.dead = false) (hdir : s.dir = .rx)
    (hfull : messageFull s = false) :
    phaseAfterAdd f s = if count s + 1 = dfcAfterAdd f s then .rxComplete else .rxAssembling := by
  rw [phaseAfterAdd, phase_of_rx hd hdir]
  by_cases hzero : count s = 0
  · have hone : 1 = framesFor f.b1.toNat ↔ f.b1.toNat ≤ 6 := by
      unfold framesFor
      omega
    by_cases hidx : idxOf f = 0
    · simp only [dfcAfterAdd, hzero, hidx, if_true, Nat.zero_add, hone]
    · simp only [dfcAfterAdd, hzero, hidx, if_true, if_false, Nat.zero_add, @eq_comm _ 1]
  · have hne : count s ≠ s.dfc.toNat := fun heq => by simp [(messageFull_iff s).mpr ⟨hzero, heq⟩] at hfull
    rw [if_neg hzero, if_neg hne]
    rfl

theorem phase_addFrame_accepted {f : Frame} {s t : State} {b : Bool} (hd : s.dead = false)
    (h : addFrame f s = .next t) (hresp : t.resp = some (.flag b)) : phase t = phaseAfterAdd f s := by
  obtain ⟨hdir, hfull, hcount, hdfc⟩ := addFrame_accepted h hresp
  obtain ⟨hdead, -, -, hdir', -⟩ := addFrame_registers h
  rw [phaseAfterAdd_eq hd hdir hfull, phase_of_rx (hdead.trans hd) (hdir'.trans hdir), hcount, hdfc,
    if_neg (Nat.succ_ne_zero _)]

theorem phase_loadMessage (pin : PayloadPort) (len seq : Byte) {s : State} (hd : s.dead = false) :
    phase (loadMessage pin len seq s) = .txLoaded := by
  refine phase_eq_txLoaded_iff.mpr ⟨hd, rfl, ?_⟩
  rw [count, loadMessage_store, segmentFrames_length]
  exact (framesFor_pos _).ne'

/-- What POPF does to the pieces the phase is made of. -/
theorem exec_popf_pieces {s t : State} (hd : s.dead = false) (h : exec .popf s = .next t) :
    t.dead = false ∧ t.dir = s.dir ∧ count t = count s - 1 := by
  obtain rfl := respond_next ((exec_popf hd).symm.trans h)
  exact ⟨hd, rfl, List.length_drop⟩

/-- Settles O54: one lemma on the phase per row of the table, on the state its operation leaves. -/
theorem phasesFollowTransitionTable : Obligations.PhasesFollowTransitionTable := by
  intro i s t hd h
  have hpopf (hi : i = .popf) := exec_popf_pieces hd (hi ▸ h)
  refine ⟨fun hi => ?_, fun ⟨pin, len, seq, hi⟩ => ?_, fun hi => ?_, fun hi hload => ?_, fun hi hone hdir => ?_,
    fun hi hzero => ?_, fun f b hi hresp => ?_, fun ⟨e, hresp⟩ => ?_, fun hrep hoff hpop hget => ?_⟩
  · have hinit : exec i s = respond .done (initMessage s) := by
      obtain rfl | rfl := hi
      exacts [exec_newrx hd, exec_clr hd]
    rw [respond_next (hinit.symm.trans h)]
    exact phase_of_count_zero hd rfl
  · subst hi
    obtain ⟨-, -, -, rfl⟩ := exec_fromp_next hd h
    exact phase_loadMessage pin len seq hd
  · subst hi
    rw [respond_next ((exec_getp hd).symm.trans h)]
    exact phase_of_count_zero hd rfl
  · obtain ⟨hdt, hdirt, hcount⟩ := hpopf hi
    obtain ⟨-, hdir, hne⟩ := phase_eq_txLoaded_iff.mp hload
    have hlast : count t = 0 ↔ count s = 1 := by omega
    simp only [phase_of_tx hdt (hdirt.trans hdir), hlast]
  · obtain ⟨hdt, hdirt, hcount⟩ := hpopf hi
    rw [phase_of_count_zero hdt (by omega), hdirt, hdir]
    rfl
  · obtain ⟨hdt, hdirt, hcount⟩ := hpopf hi
    rw [phase_of_count_zero hdt (by omega), phase_of_count_zero hd hzero, hdirt]
  · rw [exec_offered hi, whenLive_live hd] at h
    exact phase_addFrame_accepted hd h hresp
  · rw [eq_of_exec_error h hresp, phase_resp]
  · obtain ⟨r, hr⟩ := exec_leavesMessage ⟨hrep, hoff, hpop, hget⟩ hd
    rw [respond_next (hr.symm.trans h), phase_resp]

end Sys2Proof.Proofs
end

section
/-! SUPPORT. Errors and faults (spec/60_exceptions.md): the errors an instruction answers are those of the table (`raises`,
R181), `status` names the error (R79), and a dead block does nothing with what it takes (R191). Then the proofs of the
statements of 60_exceptions.md. -/

namespace Sys2Proof.Proofs

open Machine Safety

/-! ## The table of errors (R181) -/

theorem raises_offered {i : Instr} {f : Frame} (h : offered i = some f) {s : State} {e : ErrorCode} :
    raises i s e ↔ addfRaises f s e := by
  cases i <;> cases h <;> rfl

/-- Of the instructions that offer no frame the table names ENCC alone. -/
theorem raises_cases {i : Instr} {s : State} {e : ErrorCode} (h : raises i s e) :
    (∃ f, offered i = some f) ∨
      ∃ p seq idx, i = .encc p seq idx ∧ e = .invalidParameter ∧ (7 < seq.toNat ∨ 31 < idx.toNat) := by
  cases i with
  | addf | frameFirst | frameConsec => exact .inl ⟨_, rfl⟩
  | encc p seq idx => exact .inr ⟨p, seq, idx, rfl, h⟩
  | _ => exact h.elim

/-- Two codes are in no row of the table: EmptyQueue (R183), and the answer to a reserved `op` (R81). -/
theorem not_raises_of_no_row {e : ErrorCode} (he : e = .emptyQueue ∨ e = .illegalCommand) (i : Instr) (s : State) :
    ¬ raises i s e := by
  intro h
  obtain ⟨f, hi⟩ | ⟨-, -, -, -, rfl, -⟩ := raises_cases h
  · rw [raises_offered hi] at h
    obtain rfl | rfl := he <;> exact h
  · simp at he

theorem exec_of_raises {i : Instr} {s : State} {e : ErrorCode} (hd : s.dead = false) (h : raises i s e) :
    exec i s = .next { s with resp := some (.error e) } := by
  obtain ⟨f, hi⟩ | ⟨p, seq, idx, rfl, rfl, hrange⟩ := raises_cases h
  · rw [exec_offered hi, whenLive_live hd]
    exact addFrame_of_addfRaises ((raises_offered hi).mp h)
  · exact exec_encc_outOfRange hd p hrange

/-- A codec operation or an accessor answers an error only where the table of R181 states it: ENCC's out of range. -/
theorem raises_of_leavesMessage_error {i : Instr} (hi : LeavesMessage i) {s t : State} {e : ErrorCode}
    (hd : s.dead = false) (h : exec i s = .next t) (hresp : t.resp = some (.error e)) : raises i s e := by
  obtain ⟨hrep, hoff, hpop, hget⟩ := hi
  cases i with
  | newrx | clr | fromp => cases hrep
  | addf | frameFirst | frameConsec => cases hoff
  | popf => exact absurd rfl hpop
  | getp => exact absurd rfl hget
  | encc p seq idx =>
    by_cases hrange : 7 < seq.toNat ∨ 31 < idx.toNat
    · cases (exec_encc_outOfRange hd p hrange).symm.trans h
      cases hresp
      exact ⟨rfl, hrange⟩
    · cases (exec_encc_inRange hd p (by omega) (by omega)).symm.trans h
      cases hresp
  | encf | dec | fseq | fidx | fisf | flen | fpay | mcnt | mseq | mlen =>
    obtain rfl := respond_next ((whenLive_live hd _).symm.trans h)
    cases hresp

theorem raises_of_exec_error {i : Instr} {s t : State} {e : ErrorCode} (hd : s.dead = false)
    (h : exec i s = .next t) (hresp : t.resp = some (.error e)) : raises i s e := by
  cases exec_effect h with
  | silent | popped | flattened | cleared | loaded => cases hresp
  | answered i r _ hi => exact raises_of_leavesMessage_error hi hd h hresp
  | added i f t _ hi hadd =>
    exact (raises_offered hi).mpr (addfRaises_of_exec_addf hd ((exec_addf f hd).trans hadd) hresp)

/-! ## The status (R79) -/

theorem errorStatus_injective : Function.Injective errorStatus := by
  intro e e' h
  cases e <;> cases e' <;> simp [errorStatus] at h ⊢

theorem errorStatus_ne_zero (e : ErrorCode) : errorStatus e ≠ 0 := by
  cases e <;> decide

theorem statusOf_eq_errorStatus_iff {r : Response} {e : ErrorCode} : statusOf r = errorStatus e ↔ r = .error e := by
  cases r with
  | error e' => exact errorStatus_injective.eq_iff.trans (Response.error.injEq e' e).to_iff.symm
  | _ => exact ⟨fun h => absurd h.symm (errorStatus_ne_zero e), nofun⟩

theorem statusOf_eq_zero_iff {r : Response} : statusOf r = 0 ↔ ∀ e, r ≠ .error e := by
  cases r with
  | error e => exact ⟨fun h => absurd h (errorStatus_ne_zero e), fun h => absurd rfl (h e)⟩
  | _ => exact ⟨fun _ => nofun, fun _ => rfl⟩

theorem statusOf_le_six {r : Response} (h : r ≠ .error .illegalCommand) : (statusOf r).toNat ≤ 6 := by
  cases r with
  | error e =>
    cases e with
    | illegalCommand => exact absurd rfl h
    | _ => decide
  | _ => exact Nat.zero_le 6

/-! ## The errors -/

/-- Settles O51: of all an instruction can have done (`Effect`), only an answer that writes no state is an error. -/
theorem errorLeavesStateUnchanged : Obligations.ErrorLeavesStateUnchanged :=
  fun _ _ _ _ => eq_of_exec_error

/-- The answer of a live block is the error `e` exactly when the table states it (R181). -/
theorem exec_error_iff {i : Instr} {s t : State} {r : Response} (hd : s.dead = false) (h : exec i s = .next t)
    (hresp : t.resp = some r) (e : ErrorCode) : r = .error e ↔ raises i s e := by
  refine ⟨fun hr => raises_of_exec_error hd h (hr ▸ hresp), fun he => ?_⟩
  cases (exec_of_raises hd he).symm.trans h
  cases hresp
  rfl

/-- Settles O49: the answer is an error exactly when the table states it, and `status` tells the errors apart. -/
theorem errorsExactlyWhenStated : Obligations.ErrorsExactlyWhenStated := by
  intro i s hd
  refine ⟨fun e => ⟨fun ⟨t, h, hresp⟩ => raises_of_exec_error hd h hresp, fun he => ⟨_, exec_of_raises hd he, rfl⟩⟩,
    fun t r h hresp => ?_⟩
  have herr := exec_error_iff hd h hresp
  have hcode (e : ErrorCode) : statusOf r = errorStatus e ↔ raises i s e := statusOf_eq_errorStatus_iff.trans (herr e)
  refine ⟨?_, hcode .invalidParameter, hcode .emptyQueue, hcode .fullQueue, hcode .transmissionTypeMismatch,
    hcode .sequenceCountError, hcode .sequenceMismatch, statusOf_le_six ?_⟩
  · exact statusOf_eq_zero_iff.trans (forall_congr' fun e => not_congr (herr e))
  · exact mt (herr _).mp (not_raises_of_no_row (.inr rfl) i s)

theorem exec_ne_emptyQueue {i : Instr} {s t : State} (h : exec i s = .next t) : t.resp ≠ some (.error .emptyQueue) := by
  intro hresp
  cases hd : s.dead with
  | true =>
    cases (exec_dead i hd).symm.trans h
    cases hresp
  | false => exact not_raises_of_no_row (.inl rfl) i s (raises_of_exec_error hd h hresp)

/-- What the block carries out raises no EmptyQueue: an instruction does not, and a reserved `op` has its own code. -/
theorem serve_ne_emptyQueue {w : Raw} {s t : State} (h : serve w s = .next t) : t.resp ≠ some (.error .emptyQueue) := by
  unfold serve at h
  split at h
  · exact exec_ne_emptyQueue h
  · obtain ⟨-, rfl⟩ | ⟨-, h⟩ := whenLive_next h
    · nofun
    · rw [respond_next h]
      nofun

/-- Settles O50: no row of the table has the code, and the two operations that read the store answer an empty one. -/
theorem emptyQueueNeverRaised : Obligations.EmptyQueueNeverRaised := by
  refine ⟨fun i s t => exec_ne_emptyQueue, fun s t ht => ?_, fun s hd hs => ⟨?_, padPort, rfl, ?_⟩⟩
  · obtain ⟨-, h⟩ | ⟨rest, -, h⟩ | ⟨w, rest, -, h⟩ := step_cases s <;> rw [h] at ht
    · cases ht
      nofun
    · cases ht
      nofun
    · obtain h | rfl := settle_next ht
      · exact serve_ne_emptyQueue h
      · nofun
  · exact (popfTakesOldestFrame s hd).2 hs
  · have hkept : { s with store := [] } = s := by rw [← hs]
    have hpad : flattenStore s.store = padPort := by rw [hs]; rfl
    rw [exec_getp hd, hkept, hpad, respond]

/-! ## The faults and the dead block -/

/-- Settles O10: an offered frame faults on a full store, FROMP by its two tests, and any other instruction answers. -/
theorem faultsExactlyWhenStated : Obligations.FaultsExactlyWhenStated :=
  fun _ _ _ => exec_fault_iff

theorem serve_dead (w : Raw) {s : State} (hd : s.dead = true) : serve w s = .next (silent s) := by
  unfold serve
  split
  · exact exec_dead _ hd
  · exact whenLive_dead hd _

theorem step_hardwareReset {s : State} {rest : List HostAct} (h : s.requests = .hardwareReset :: rest) :
    step s = .next (hardwareReset { s with requests := rest }) := by
  simp [step, nextAct_cons h]

/-- Settles O9: an instruction and a reserved code alike are silent on a dead block. -/
theorem deadBlockAcceptsNothing : Obligations.DeadBlockAcceptsNothing := by
  refine ⟨fun i s => exec_dead i, fun s w rest hd hq => ?_, fun s rest hq => ⟨_, step_hardwareReset hq, rfl⟩⟩
  have hd' : { s with requests := rest }.dead = true := hd
  exact (step_issue hq).trans (congrArg (settle _) (serve_dead w hd'))

end Sys2Proof.Proofs
end

section
/-! SUPPORT. Reset and hazards (spec/70_reset_and_hazards.md): hardware reset as the initial Message of NEWRX and CLR (R211),
and that nothing the block takes is refused or, by a live block that does not fault, left unanswered (R226). Then the
proofs of the statements of 70_reset_and_hazards.md. -/

namespace Sys2Proof.Proofs

open Machine

/-! ## Hardware reset -/

/-- Settles O8: with no action, or with anything handed over (`deadBlockAcceptsNothing`), a dead block stays dead. -/
theorem hardwareResetAloneClearsDead : Obligations.HardwareResetAloneClearsDead := by
  refine ⟨fun s rest hq => step_hardwareReset hq, fun s t hdead ht hlive => ?_⟩
  obtain ⟨-, hidle⟩ | ⟨rest, hq, -⟩ | ⟨w, rest, hq, -⟩ := step_cases s
  · cases hidle.symm.trans ht
    cases hdead.symm.trans hlive
  · exact ⟨rest, hq⟩
  · obtain ⟨-, hsilent, -⟩ := deadBlockAcceptsNothing
    cases (hsilent s w rest hdead hq).symm.trans ht
    cases hdead.symm.trans hlive

/-- On a live block hardware reset has no latch to clear, so it is the initial Message without a response (R211). -/
theorem hardwareReset_of_live {s : State} (hd : s.dead = false) : hardwareReset s = silent (initMessage s) := by
  simp [hardwareReset, silent, hd]

/-- Settles O43: NEWRX and CLR answer `done` in the initial Message, to which hardware reset gives no response. -/
theorem threeWaysToInitialState : Obligations.ThreeWaysToInitialState := by
  intro s rest hd hq
  have hd' : { s with requests := rest }.dead = false := hd
  have hreset := (step_hardwareReset hq).trans (congrArg _ (hardwareReset_of_live hd'))
  exact ⟨_, _, hreset, exec_newrx hd', exec_clr hd', rfl⟩

/-! ## Every request is answered -/

theorem exec_answers {i : Instr} {s t : State} (hd : s.dead = false) (h : exec i s = .next t) : t.resp ≠ none := by
  cases exec_effect h with
  | silent _ hdead => cases hd.symm.trans hdead
  | answered | popped | flattened | cleared | loaded => nofun
  | added i f t _ _ hadd =>
    obtain ⟨e, rfl⟩ | ⟨-, -, -, -, rfl⟩ | ⟨-, -, -, -, -, -, rfl⟩ := addFrame_next hadd <;> nofun

/-- What a live block carries out is answered: by the instruction, or with the reserved `op`'s own code (R81). -/
theorem serve_answers {w : Raw} {s t : State} (hd : s.dead = false) (h : serve w s = .next t) : t.resp ≠ none := by
  unfold serve at h
  split at h
  · exact exec_answers hd h
  · cases (whenLive_live hd _).symm.trans h
    nofun

theorem serve_ne_refused (w : Raw) (s : State) (r : Refusal) : serve w s ≠ .refused r := by
  unfold serve
  split
  · exact exec_ne_refused _ s r
  · unfold illegalCommand whenLive
    split <;> nofun

/-- The step takes a fault (R190), so only a refusal would leave it without a next state. -/
theorem exists_settle_next (s : State) {k : Result} (h : ∀ r, k ≠ .refused r) : ∃ t, settle s k = .next t := by
  cases k with
  | next t => exact ⟨t, rfl⟩
  | fault r => exact ⟨takeFault s, rfl⟩
  | refused r => exact absurd rfl (h r)

/-- Settles O12: what is handed over is never refused, and a next state that is not the fault's holds an answer. -/
theorem everyRequestAnswered : Obligations.EveryRequestAnswered := by
  intro s
  obtain ⟨hq, hstep⟩ | ⟨rest, hq, hstep⟩ | ⟨w, rest, hq, hstep⟩ := step_cases s
  · exact ⟨_, hstep, fun _ _ hissue => by cases hq.symm.trans hissue⟩
  · exact ⟨_, hstep, fun _ _ hissue => by cases hq.symm.trans hissue⟩
  · obtain ⟨t, ht⟩ := exists_settle_next { s with requests := rest } (serve_ne_refused w _)
    refine ⟨t, hstep.trans ht, fun _ _ _ hd hlive => ?_⟩
    obtain hserve | rfl := settle_next ht
    · exact serve_answers (s := { s with requests := rest }) hd hserve
    · cases hlive

end Sys2Proof.Proofs
end
